-- ==== Sys2Proof/Word.lean ====
section
/-! DEFINITION. The word types of the RTE (00_scope.md R7, R9): host register words, device
register values, bytes on the bus, and 7-bit bus addresses. -/

namespace Sys2Proof

/-- A host register word, 32 bits (R7). -/
abbrev Word := BitVec 32

/-- A 16-bit device register value (R7). -/
abbrev Half := BitVec 16

/-- A byte as the transport carries it; also the ADDR and REG fields of a command (R7). -/
abbrev Byte := BitVec 8

/-- The 7-bit device address passed to the transport (R72). -/
abbrev Addr7 := BitVec 7

end Sys2Proof
end

