-- ==== Sys2Proof/Config.lean ====
section
/-! DEFINITION. What an implementation fixes (the OPEN parameters of 92_eei_decisions.md D2, D17,
D21, D37) and the free values (the transport's draws, R101). Every parameter and every free value is
opaque: nothing in Lean can evaluate it, so a theorem holds for every admissible value. -/

namespace Sys2Proof

/-- The number of bits set in a 16-bit mask (R140 constraint 1). -/
def popCount (m : Half) : Nat := (List.range 16).countP (fun i => m.getLsbD i)

/-- A parameter set of the mode-control register with the constraints of 42_mode_configurator.md
R140. The default field values are the reference instance of 00_scope.md R8; the machine never uses
it (log 6). -/
structure ModeParams where
  resMask  : Half := 0x6000#16
  shdnMask : Half := 0x0100#16
  rateMask : Half := 0x00C0#16
  rate1sps : Half := 0x0040#16
  /-- R140 constraint 1: widths 2, 1 and 2. -/
  res_width  : popCount resMask = 2 := by decide
  shdn_width : popCount shdnMask = 1 := by decide
  rate_width : popCount rateMask = 2 := by decide
  /-- R140 constraint 2: pairwise disjoint. -/
  res_shdn  : resMask &&& shdnMask = 0#16 := by decide
  res_rate  : resMask &&& rateMask = 0#16 := by decide
  shdn_rate : shdnMask &&& rateMask = 0#16 := by decide
  /-- R140 constraint 3. -/
  rate_in   : rate1sps &&& ~~~rateMask = 0#16 := by decide
deriving Inhabited

/-- `M = RES_MASK | SHDN_MASK | RATE_MASK` (R140). -/
def ModeParams.mask (p : ModeParams) : Half := p.resMask ||| p.shdnMask ||| p.rateMask

/-- The engine clock and the settle count with the constraint of R146 (D21):
`SETTLE_CYCLES / CLK_HZ ≥ 0.150 s`. -/
structure ClockParams where
  clkHz        : Nat := 20
  settleCycles : Nat := 3
  clk_pos : 0 < clkHz := by decide
  settle_long : 150 * clkHz ≤ 1000 * settleCycles := by decide
deriving Inhabited

/-- The lane order a platform may choose for the host window (R54). -/
inductive Endian where
  | little
  | big
deriving DecidableEq, Repr, Inhabited

/-- The four masks of this implementation (R140, I1; log 6). -/
opaque Config.modeParams : ModeParams

/-- CLK_HZ and SETTLE_CYCLES of this implementation (R146, I8; log 7). -/
opaque Config.clock : ClockParams

/-- RTE_BASE, the platform's placement of the window (R55, I10). No rule depends on it (log 8). -/
opaque Config.rteBase : Nat

/-- HOST_ENDIAN (R54, I10). It is not observable with whole 32-bit accesses (log 8). -/
opaque Config.hostEndian : Endian

/-- `REG_MODE`, the offset of the mode-control register (R58). -/
def Config.regMode : Byte := 0x01#8

/-- `REG_TEMP`, the offset of the temperature data register (R58). -/
def Config.regTemp : Byte := 0x00#8

/-- SETTLE_CYCLES (R35, R146). -/
abbrev Config.settleCycles : Nat := Config.clock.settleCycles

/-- Free value: the acknowledge the transport returns to a `T_END` (R101, I2; log 1). -/
opaque Config.freeAck : Nat → Bool

/-- Free value: the count the transport returns to a `T_REQUEST` of 2 bytes, 0..2 (R101, I2; log 1). -/
opaque Config.freeCount : Nat → Fin 3

/-- Free value: a byte the transport returns to a `T_READ` (R101, I2; log 1). -/
opaque Config.freeByte : Nat → Byte

/-- Free value: whether the host moves before the engine where both could (R13, R33; log 3). -/
opaque Config.freeHostFirst : Nat → Bool

/-- Free value: what a variable of the host's program holds before it is assigned (R81; log 14). -/
opaque Config.freeHostVar : Nat → Word

end Sys2Proof
end

