-- ==== Sys2Proof/Machine/HostSyntax.lean ====
section
/-! DEFINITION. What the host can say to the RTE: a register access (20_memory.md R50), and the host
assembly language of 30_encoding.md R81 as abstract syntax. Labels and variables are numbered. -/

namespace Sys2Proof.Machine

/-- One host access, with its byte offset in the window and its width in bytes (R50, R51). -/
inductive Access where
  /-- `MemRead(off, width)`. -/
  | read (off width : Nat)
  /-- `MemWrite(off, width, v)`. -/
  | write (off width : Nat) (v : Word)
deriving DecidableEq, Repr

/-- A field of a STATUS value that the host can branch on (R81; the fields of 10_state.md R26). -/
inductive StatusField where
  | busy
  | done
  | ok
  | err
  | phase
deriving DecidableEq, Repr

/-- An expression of the host language: a number or a host variable (R81; log 14). -/
inductive HostExpr where
  | const (w : Word)
  | var (x : Nat)
deriving DecidableEq, Repr

/-- A statement of the host language (R81). -/
inductive Stmt where
  /-- `label:` -/
  | label (l : Nat)
  /-- `wr OFF, expr`: `MemWrite(OFF, 4, expr)`. -/
  | wr (off : Nat) (e : HostExpr)
  /-- `rd var, OFF`: `var <- MemRead(OFF, 4)`. -/
  | rd (x : Nat) (off : Nat)
  /-- `beq var.F, k, label`. -/
  | beq (x : Nat) (f : StatusField) (k : Word) (l : Nat)
  /-- `bne var.F, k, label`. -/
  | bne (x : Nat) (f : StatusField) (k : Word) (l : Nat)
  /-- `jmp label`. -/
  | jmp (l : Nat)
  /-- `halt`. -/
  | halt
  /-- `emit expr, ...`: hand values to the host's sink. -/
  | emit (es : List HostExpr)
deriving DecidableEq, Repr

/-- The label a statement jumps to, if it names one. -/
def Stmt.target : Stmt → Option Nat
  | .beq _ _ _ l => some l
  | .bne _ _ _ l => some l
  | .jmp l => some l
  | .label _ => none
  | .wr _ _ => none
  | .rd _ _ => none
  | .halt => none
  | .emit _ => none

/-- The window offset a statement accesses, if it accesses one. -/
def Stmt.offset : Stmt → Option Nat
  | .wr off _ => some off
  | .rd _ off => some off
  | .label _ => none
  | .beq _ _ _ _ => none
  | .bne _ _ _ _ => none
  | .jmp _ => none
  | .halt => none
  | .emit _ => none

/-- The host agent: its program, the position in it, its variables, the values it has handed to its
sink, and whether it has executed `halt` (R81, R250). -/
structure HostAgent where
  prog    : List Stmt
  pos     : Nat
  vars    : List (Nat × Word)
  emitted : List (List Word)
  halted  : Bool
deriving DecidableEq, Repr

end Sys2Proof.Machine
end

