-- ==== Sys2Proof/Machine/State.lean ====
section
/-! DEFINITION. The state of the RTE (10_state.md R23 to R36) with the agents around it (00_scope.md R13),
the reasons a step can stop, and the state after reset (R38). -/

namespace Sys2Proof.Machine

/-- The error codes of 60_exceptions.md R200. The reserved codes 6 to 15 are never produced (I11), so the
type has no constructor for them (log 10). -/
inductive ErrCode where
  /-- 0 NONE -/
  | noErr
  /-- 1 ILLEGAL -/
  | illegal
  /-- 2 BAD_ADDR -/
  | badAddr
  /-- 3 NACK -/
  | nack
  /-- 4 SHORT_READ -/
  | shortRead
  /-- 5 VERIFY -/
  | verify
deriving DecidableEq, Repr

/-- The fields of STATUS (R26). The reserved bits hold nothing and read as 0 (log 10). -/
structure Status where
  busy  : Bool
  done  : Bool
  ok    : Bool
  err   : ErrCode
  phase : BitVec 2
deriving DecidableEq, Repr

/-- The step labels RD.1 to RD.6 of the register-read sub-sequence (R105). -/
inductive RdLabel where
  | rd1 | rd2 | rd3 | rd4 | rd5 | rd6
deriving DecidableEq, Repr

/-- The step labels WR.1 to WR.5 of the register-write sub-sequence (R106). -/
inductive WrLabel where
  | wr1 | wr2 | wr3 | wr4 | wr5
deriving DecidableEq, Repr

/-- The step labels PB.1 and PB.2 of the probe sub-sequence (R130). -/
inductive PbLabel where
  | pb1 | pb2
deriving DecidableEq, Repr

/-- The step labels of CONFIGURE: the initial read R1, the write, the settle CF.S, the readback R2 (R32). -/
inductive CfLabel where
  | r1 (l : RdLabel)
  | wr (l : WrLabel)
  | settle
  | r2 (l : RdLabel)
deriving DecidableEq, Repr

/-- The sequencer state: IDLE or a pair (command, step label) (R32). FORCE and DECODE complete in the
acceptance step and have no label (R76). -/
inductive Fsm where
  | idle
  | probe (l : PbLabel)
  | read16 (l : RdLabel)
  | write16 (l : WrLabel)
  | configure (l : CfLabel)
  | readTemp (l : RdLabel)
deriving DecidableEq, Repr

/-- One transport primitive as the engine issued it, with the transport's answer (R100). -/
inductive Prim where
  /-- `T_BEGIN(a7)` -/
  | tBegin (a7 : Addr7)
  /-- `T_WRITE(b)` -/
  | tWrite (b : Byte)
  /-- `ack <- T_END(release)` -/
  | tEnd (release ack : Bool)
  /-- `n <- T_REQUEST(a7, count)` -/
  | tRequest (a7 : Addr7) (count : Nat) (n : Fin 3)
  /-- `b <- T_READ()` -/
  | tRead (b : Byte)
deriving DecidableEq, Repr

/-- What the transport answers in one engine step; the step uses the part its primitive asks for (R101). -/
structure Draw where
  ack  : Bool
  n    : Fin 3
  byte : Byte
deriving DecidableEq, Repr

/-- One atomic step of one agent (R13; log 2). -/
inductive Event where
  /-- A register access by the host from outside (R50). -/
  | access (a : Access)
  /-- The host executes the next statement of its own program (R81). -/
  | hostTurn
  /-- The engine takes its step, and the transport answers with `d` (R33, R101). -/
  | engine (d : Draw)
  /-- `rst` is asserted (R230). -/
  | reset
deriving DecidableEq, Repr

/-- The machine and the agents around it, as plain data. -/
structure State where
  /-- CMD: the last accepted command word (R24). -/
  cmd     : Word
  /-- WDATA.DATA, bits [15:0]; bits [31:16] read as 0 (R25). -/
  wdata   : Half
  /-- STATUS (R26). -/
  status  : Status
  /-- RDATA.VALUE, bits [15:0]; bits [31:16] read as 0 (R27). -/
  rdata   : Half
  /-- TEMPQ (R28). -/
  tempq   : Word
  /-- TEMPF (R29). -/
  tempf   : Word
  /-- FVAL.VALUE, bits [15:0]; bits [31:16] read as 0 (R30). -/
  fval    : Half
  /-- The sequencer (R32). -/
  fsm     : Fsm
  /-- CMDL: the latched command word (R34). -/
  cmdl    : Word
  /-- OPD: the latched operand (R34). -/
  opd     : Half
  /-- HI: the first byte of a register read (R34). -/
  hi      : Byte
  /-- V: the value the running sequence writes (R34). -/
  v       : Half
  /-- SCNT: the settle counter (R35; log 7). -/
  scnt    : Nat
  /-- `bus_held`: transport state, tracked for the hazard of R243 (R36; log 5). -/
  busHeld : Bool
  /-- The model's own: the transport primitives issued so far, oldest first (R100; log 11). -/
  busLog  : List Prim
  /-- The model's own: the values the host's reads have returned, oldest first (R249; log 11). -/
  reads   : List Word
  /-- The model's own: the steps to come, as the agents outside choose them (R13; log 2). -/
  script  : List Event
  /-- The model's own: how many steps have taken a free value (log 1, 3). -/
  drawn   : Nat
  /-- The host agent (R81; log 14). -/
  host    : HostAgent
deriving DecidableEq, Repr

/-- Reasons to stop with a fault. There are NONE: the RTE has no trap, every failure the spec names is a
completion status, and nothing halts it (60_exceptions.md R205). Safe: nothing stops. -/
inductive Fault where
deriving DecidableEq, Repr

/-- Reasons for which the model gives a step no meaning. -/
inductive Refusal where
  /-- An instruction without a meaning. No arm of exec uses it. Safe. -/
  | notModelled (mnemonic : String)
  /-- Raised by a host access that is not an aligned 32-bit access inside the window. The spec leaves it
  undefined and says that a model refuses it (20_memory.md R51, I7). Safe. -/
  | undefinedAccess (off width : Nat)
  /-- Raised by the host program where it jumps to a label it does not define; R81 gives that no meaning
  (log 14). Safe. -/
  | undefinedLabel (l : Nat)
deriving DecidableEq, Repr

/-- What one step answers. -/
abbrev Result := Host.Outcome State Fault Refusal

/-- STATUS after reset: 0x00000000 (R26, R38). -/
def Status.zero : Status := { busy := false, done := false, ok := false, err := .noErr, phase := 0#2 }

/-- The host before anything is loaded into it: no program (log 14, 15). -/
def HostAgent.empty : HostAgent := { prog := [], pos := 0, vars := [], emitted := [], halted := false }

/-- The machine right after reset (R38, R230): every register and latch 0, the sequencer IDLE. The transport
holds no bus (log 5) and the agents outside have done nothing and have nothing scheduled (log 2, 11, 15). -/
def State.reset : State :=
  { cmd := 0#32, wdata := 0#16, status := Status.zero, rdata := 0#16, tempq := 0#32, tempf := 0#32,
    fval := 0#16, fsm := .idle, cmdl := 0#32, opd := 0#16, hi := 0#8, v := 0#16, scnt := 0,
    busHeld := false, busLog := [], reads := [], script := [], drawn := 0, host := HostAgent.empty }

end Sys2Proof.Machine
end

