-- ==== Sys2Proof/Machine/Flags.lean ====
section
/-! DEFINITION. STATUS: its host-visible word (10_state.md R26) and the two ways it is written, at acceptance
(30_encoding.md R76) and by `finish` (60_exceptions.md R203). -/

namespace Sys2Proof.Machine

/-- The code of an error (R200). -/
def errCode : ErrCode → BitVec 4
  | .noErr => 0#4
  | .illegal => 1#4
  | .badAddr => 2#4
  | .nack => 3#4
  | .shortRead => 4#4
  | .verify => 5#4

/-- STATUS as the host reads it: PHASE [13:12], ERR [11:8], OK [2], DONE [1], BUSY [0], the rest 0 (R26). -/
def statusWord (st : Status) : Word :=
  (st.phase.setWidth 32 <<< 12) ||| ((errCode st.err).setWidth 32 <<< 8)
    ||| ((BitVec.ofBool st.ok).setWidth 32 <<< 2) ||| ((BitVec.ofBool st.done).setWidth 32 <<< 1)
    ||| (BitVec.ofBool st.busy).setWidth 32

/-- STATUS while a command is in progress, as acceptance writes it (R76). -/
def statusInProgress : Status :=
  { busy := true, done := false, ok := false, err := .noErr, phase := 0#2 }

/-- Does an error record a phase (R203)? -/
def recordsPhase : ErrCode → Bool
  | .nack => true
  | .shortRead => true
  | .verify => true
  | .noErr => false
  | .illegal => false
  | .badAddr => false

/-- PHASE as `finish` writes it: kept for the bus and verify errors of CONFIGURE, else 0 (R201, R203). -/
def finishPhase (err : ErrCode) (isConfigure : Bool) (phase : BitVec 2) : BitVec 2 :=
  if recordsPhase err && isConfigure then phase else 0#2

/-- STATUS as `finish` writes it (R203). -/
def statusFinished (err : ErrCode) (phase : BitVec 2) : Status :=
  { busy := false, done := true, ok := decide (err = .noErr), err := err, phase := phase }

/-- A field of a STATUS value, zero-extended (R81, R26). -/
def statusFieldOf (f : StatusField) (w : Word) : Word :=
  match f with
  | .busy => (w.extractLsb' 0 1).setWidth 32
  | .done => (w.extractLsb' 1 1).setWidth 32
  | .ok => (w.extractLsb' 2 1).setWidth 32
  | .err => (w.extractLsb' 8 4).setWidth 32
  | .phase => (w.extractLsb' 12 2).setWidth 32

end Sys2Proof.Machine
end

