-- ==== Sys2Proof/Syntax.lean ====
section
/-! DEFINITION. The commands of spec/opcode_table.json, one constructor per row (30_encoding.md R75).
Each carries both the ADDR and the REG field of its word: a field that the command ignores has no
effect, but CMD reads it back as written (R77). The 16-bit operand of WRITE16, FORCE and DECODE is not
in the command (R70): it is the latch OPD. -/

namespace Sys2Proof

/-- A legal command word (R70 to R75). -/
inductive Instr where
  /-- PROBE, OP 0x1: does a device acknowledge ADDR? REG is ignored (R131). -/
  | probe (addr reg : Byte)
  /-- READ16, OP 0x2: read the device register (ADDR, REG) (R110). -/
  | read16 (addr reg : Byte)
  /-- WRITE16, OP 0x3: write OPD to the device register (ADDR, REG) (R111). -/
  | write16 (addr reg : Byte)
  /-- CONFIGURE, OP 0x4: read, force, write, settle, read back and verify the mode-control
  register of ADDR. REG is ignored (R150). -/
  | configure (addr reg : Byte)
  /-- READTEMP, OP 0x5: read and decode the temperature register of ADDR. REG is ignored (R180). -/
  | readTemp (addr reg : Byte)
  /-- FORCE, OP 0x6: apply `force12` to OPD. ADDR and REG are ignored (R145). -/
  | force (addr reg : Byte)
  /-- DECODE, OP 0x7: decode OPD as a raw sample. ADDR and REG are ignored (R182). -/
  | decode (addr reg : Byte)
deriving DecidableEq, Repr

end Sys2Proof
end

