-- ==== Sys2Proof/Decode.lean ====
section
/-! DEFINITION. The command decoder (30_encoding.md R70 to R78), total on 32-bit words and rejecting by
name, and after it the encoder, written from the same table. A command is one 32-bit word written in a
single host access, so no byte order enters (R54, R80). -/

namespace Sys2Proof

/-- OP, bits [3:0] (R70). -/
def opField (c : Word) : BitVec 4 := c.extractLsb' 0 4

/-- RSV0, bits [7:4] (R70). -/
def rsv0Field (c : Word) : BitVec 4 := c.extractLsb' 4 4

/-- ADDR, bits [15:8] (R70). -/
def addrField (c : Word) : Byte := c.extractLsb' 8 8

/-- REG, bits [23:16] (R70). -/
def regField (c : Word) : Byte := c.extractLsb' 16 8

/-- RSV1, bits [31:24] (R70). -/
def rsv1Field (c : Word) : Byte := c.extractLsb' 24 8

/-- Why a word is no command (R78). Whatever the reason, the RTE completes it with ERR = ILLEGAL. -/
inductive DecodeReject where
  /-- OP is 0x0 or 0x8 to 0xF (R71). -/
  | illegalOp (op : BitVec 4)
  /-- RSV0 is not 0 (R74). -/
  | reserved0 (rsv0 : BitVec 4)
  /-- RSV1 is not 0 (R74). -/
  | reserved1 (rsv1 : Byte)
deriving DecidableEq, Repr

/-- The command an opcode selects, or the rejection of the opcode (R75). -/
def decodeOp (op : BitVec 4) (addr reg : Byte) : Except DecodeReject Instr :=
  match op.toNat with
  | 0x1 => .ok (.probe addr reg)
  | 0x2 => .ok (.read16 addr reg)
  | 0x3 => .ok (.write16 addr reg)
  | 0x4 => .ok (.configure addr reg)
  | 0x5 => .ok (.readTemp addr reg)
  | 0x6 => .ok (.force addr reg)
  | 0x7 => .ok (.decode addr reg)
  | _ => .error (.illegalOp op)

/-- Decode a command word: the reserved fields must be 0, then OP selects the command (R74, R75, R78). -/
def decodeWord (c : Word) : Except DecodeReject Instr :=
  if rsv0Field c ≠ 0#4 then .error (.reserved0 (rsv0Field c))
  else if rsv1Field c ≠ 0#8 then .error (.reserved1 (rsv1Field c))
  else decodeOp (opField c) (addrField c) (regField c)

/-- Assemble a command word from its fields, `(REG << 16) | (ADDR << 8) | OP`; the reserved fields are 0
(R70, R82). -/
def encodeFields (op : BitVec 4) (addr reg : Byte) : Word :=
  (reg.setWidth 32 <<< 16) ||| (addr.setWidth 32 <<< 8) ||| op.setWidth 32

/-- The opcode of a command (R75). -/
def opcodeOf : Instr → BitVec 4
  | .probe _ _ => 0x1#4
  | .read16 _ _ => 0x2#4
  | .write16 _ _ => 0x3#4
  | .configure _ _ => 0x4#4
  | .readTemp _ _ => 0x5#4
  | .force _ _ => 0x6#4
  | .decode _ _ => 0x7#4

/-- The word of a command (R70, R75). -/
def encode : Instr → Word
  | .probe a r => encodeFields 0x1#4 a r
  | .read16 a r => encodeFields 0x2#4 a r
  | .write16 a r => encodeFields 0x3#4 a r
  | .configure a r => encodeFields 0x4#4 a r
  | .readTemp a r => encodeFields 0x5#4 a r
  | .force a r => encodeFields 0x6#4 a r
  | .decode a r => encodeFields 0x7#4 a r

/-- The mask of every row of the opcode table (R75). -/
def tableMask : Word := 0xFF0000FF#32

/-- The match word of a command's row in the opcode table (R75). -/
def tableMatch : Instr → Word
  | .probe _ _ => 0x00000001#32
  | .read16 _ _ => 0x00000002#32
  | .write16 _ _ => 0x00000003#32
  | .configure _ _ => 0x00000004#32
  | .readTemp _ _ => 0x00000005#32
  | .force _ _ => 0x00000006#32
  | .decode _ _ => 0x00000007#32

/-- `enc(op, a, r)`, the word `(r << 16) | (a << 8) | op` of R82, on numbers. -/
def encNumber (op a r : Nat) : Word := BitVec.ofNat 32 ((r <<< 16) ||| (a <<< 8) ||| op)

/-- The command word whose bits are `w` numbered as the opcode table numbers them, the bits from
`nbits` up being 0. -/
def tableWord (nbits w : Nat) : Word := BitVec.ofNat 32 (w % 2 ^ nbits)

/-- What the decoder reads from a table row's word. -/
def decodeTableWord (nbits w : Nat) : Option Instr :=
  match decodeWord (tableWord nbits w) with
  | .ok i => some i
  | .error _ => none

end Sys2Proof
end

