-- ==== Sys2Proof/Machine/Operands.lean ====
section
/-! DEFINITION. Operand assembly (30_encoding.md R72, R73) and the two pure data paths: field forcing and
verify (42_mode_configurator.md R141, R147), and sample decoding (43_sample_decoder.md R170 to R175). -/

namespace Sys2Proof.Machine

/-- The 7-bit bus address, ADDR[6:0] (R72). -/
def busAddr (c : Word) : Addr7 := c.extractLsb' 8 7

/-- ADDR[7] = 1: the address of a bus command is not legal (R79). -/
def addrBit7 (c : Word) : Bool := c.getLsbD 15

/-- The upper byte of a register value, sent or received first (R104). -/
def highByte (v : Half) : Byte := v.extractLsb' 8 8

/-- The lower byte of a register value, sent or received second (R104). -/
def lowByte (v : Half) : Byte := v.extractLsb' 0 8

/-- `value = HI:lo`, big-endian (R104). -/
def joinBytes (hi lo : Byte) : Half := hi ++ lo

/-- `force12(v) = (v & ~M) | RES_MASK | RATE_1SPS` (R141). -/
def force12 (p : ModeParams) (v : Half) : Half := (v &&& ~~~p.mask) ||| p.resMask ||| p.rate1sps

/-- `verified(rb) = ((rb & RES_MASK) == RES_MASK)` (R147). -/
def verified (p : ModeParams) (rb : Half) : Bool := (rb &&& p.resMask) == p.resMask

/-- The 12-bit sample field `w[15:4]`; bits [3:0] are discarded (R170). -/
def sampleField (w : Half) : BitVec 12 := w.extractLsb' 4 12

/-- `s(w) = sint(w[15:4])` (R170). -/
def sampleInt (w : Half) : Int := (sampleField w).toInt

/-- `q(w) = sext_32(w[15:4])`, the value of TEMPQ (R170). -/
def sampleWord (w : Half) : Word := (sampleField w).signExtend 32

/-- `celsius(w) = s(w) / 16`, the exact rational (R172). -/
def celsius (w : Half) : ℚ := (sampleInt w : ℚ) / 16

/-- `f32(s)`, the binary32 encoding of `s/16`, for `s` in -2048..2047 (R174). -/
def f32 (s : Int) : Word :=
  if s = 0 then 0#32
  else
    let sgn : Nat := if s < 0 then 1 else 0
    let m := s.natAbs
    let e := m.log2
    BitVec.ofNat 32 ((sgn <<< 31) ||| ((e + 123) <<< 23) ||| ((m - 2 ^ e) <<< (23 - e)))

/-- The value of TEMPF for a raw word (R180, R182). -/
def sampleFloat (w : Half) : Word := f32 (sampleInt w)

end Sys2Proof.Machine
end

