-- ==== Sys2Proof/Machine/Ops.lean ====
section
/-! DEFINITION. The named operations on State that the commands share: acceptance (30_encoding.md R76),
completion (60_exceptions.md R203: the RTE's only way to report an error, since it has no traps, R205), the
five transport primitives (40_bus_primitive.md R100), the register-read and register-write sub-sequences
(R105, R106), and reset (70_reset_and_hazards.md R230). -/

namespace Sys2Proof.Machine

/-- Move the sequencer to a label (R32). -/
def goto (l : Fsm) (s : State) : State := { s with fsm := l }

/-- Is the accepted command CONFIGURE (R203)? -/
def isConfigure (s : State) : Bool := opField s.cmdl == 0x4#4

/-- `finish(err, phase)`: end the current command in this step (R203). `raise E(phase)` is the same. -/
def finish (err : ErrCode) (phase : BitVec 2) (s : State) : State :=
  { s with status := statusFinished err (finishPhase err (isConfigure s) phase), fsm := .idle }

/-- The register writes of acceptance: CMD, CMDL and OPD latched, STATUS in progress (R76). -/
def latchCommand (c : Word) (s : State) : State :=
  { s with cmd := c, cmdl := c, opd := s.wdata, status := statusInProgress }

/-- Acceptance of a CMD write: ignored while BUSY (R83), else latched and then `body` in the same step (R76). -/
def acceptCommand (c : Word) (body : State → State) (s : State) : State :=
  if s.status.busy then s else body (latchCommand c s)

/-- The address check of a bus command, before its sequence starts (R76, R79). -/
def checkAddress (start : State → State) (s : State) : State :=
  if addrBit7 s.cmdl then finish .badAddr 0#2 s else start s

/-- Acceptance of a word that is no command: ILLEGAL in the same step (R76, R78). -/
def acceptIllegal (c : Word) (s : State) : State := acceptCommand c (finish .illegal 0#2) s

/-- Issue a primitive on the transport (R100). -/
def issue (p : Prim) (s : State) : State := { s with busLog := s.busLog ++ [p] }

/-- `T_BEGIN(a7)` to the command's device (R100, R72). -/
def tBegin (s : State) : State := issue (.tBegin (busAddr s.cmdl)) s

/-- `T_WRITE(b)` (R100). -/
def tWrite (b : Byte) (s : State) : State := issue (.tWrite b) s

/-- `ack <- T_END(release)`; an acknowledged end without release holds the bus (R100, R36). -/
def tEnd (release ack : Bool) (s : State) : State :=
  { issue (.tEnd release ack) s with busHeld := (!release && ack) || s.busHeld }

/-- `n <- T_REQUEST(a7, 2)`, after which the bus is released (R100, R36, R112). -/
def tRequest (n : Fin 3) (s : State) : State :=
  { issue (.tRequest (busAddr s.cmdl) 2 n) s with busHeld := false }

/-- `b <- T_READ()` (R100). -/
def tRead (b : Byte) (s : State) : State := issue (.tRead b) s

/-- One step of the register-read sub-sequence `RD(a7, r, ph)` (R105). `lab` places a label in the caller's
sequence, and `onValue` is the caller's part of step RD.6. -/
def rdStep (r : Byte) (ph : BitVec 2) (lab : RdLabel → Fsm) (onValue : Half → State → State)
    (l : RdLabel) (d : Draw) (s : State) : State :=
  match l with
  | .rd1 => goto (lab .rd2) (tBegin s)
  | .rd2 => goto (lab .rd3) (tWrite r s)
  | .rd3 =>
    if d.ack then goto (lab .rd4) (tEnd false d.ack s) else finish .nack ph (tEnd false d.ack s)
  | .rd4 =>
    if d.n = 2 then goto (lab .rd5) (tRequest d.n s) else finish .shortRead ph (tRequest d.n s)
  | .rd5 => goto (lab .rd6) { tRead d.byte s with hi := d.byte }
  | .rd6 => onValue (joinBytes s.hi d.byte) (tRead d.byte s)

/-- One step of the register-write sub-sequence `WR(a7, r, V, ph)` (R106). `onAck` is the caller's part of
step WR.5. -/
def wrStep (r : Byte) (ph : BitVec 2) (lab : WrLabel → Fsm) (onAck : State → State)
    (l : WrLabel) (d : Draw) (s : State) : State :=
  match l with
  | .wr1 => goto (lab .wr2) (tBegin s)
  | .wr2 => goto (lab .wr3) (tWrite r s)
  | .wr3 => goto (lab .wr4) (tWrite (highByte s.v) s)
  | .wr4 => goto (lab .wr5) (tWrite (lowByte s.v) s)
  | .wr5 => if d.ack then onAck (tEnd true d.ack s) else finish .nack ph (tEnd true d.ack s)

/-- `rst`: every register and latch of the RTE takes its reset value, an unfinished command is abandoned, and
nothing outside the RTE changes (R230, R231, R232). -/
def resetRte (s : State) : State :=
  { State.reset with
    busHeld := s.busHeld, busLog := s.busLog, reads := s.reads, script := s.script, drawn := s.drawn,
    host := s.host }

end Sys2Proof.Machine
end

