-- ==== Sys2Proof/Machine/Bus.lean ====
section
/-! DEFINITION. READ16 and WRITE16, the bus transaction primitive (40_bus_primitive.md). -/

namespace Sys2Proof.Machine

/-- READ16: acceptance; the sequence starts at RD.1 (R110, R76). -/
def execRead16 (addr reg : Byte) (s : State) : Result :=
  .next (acceptCommand (encode (.read16 addr reg)) (checkAddress (goto (.read16 .rd1))) s)

/-- The part of READ16 in step RD.6: RDATA takes the value and the command completes (R110). -/
def read16Value (value : Half) (s : State) : State := finish .noErr 0#2 { s with rdata := value }

/-- The engine steps of READ16: `RD(a7, r, 0)` (R110). -/
def read16Step (l : RdLabel) (d : Draw) (s : State) : State :=
  rdStep (regField s.cmdl) 0#2 .read16 read16Value l d s

/-- WRITE16: acceptance; V takes the latched operand and the sequence starts at WR.1 (R111, R76). -/
def execWrite16 (addr reg : Byte) (s : State) : Result :=
  .next (acceptCommand (encode (.write16 addr reg))
    (checkAddress (fun s => goto (.write16 .wr1) { s with v := s.opd })) s)

/-- The engine steps of WRITE16: `WR(a7, r, V, 0)` (R111). -/
def write16Step (l : WrLabel) (d : Draw) (s : State) : State :=
  wrStep (regField s.cmdl) 0#2 .write16 (finish .noErr 0#2) l d s

end Sys2Proof.Machine
end

