-- ==== Sys2Proof/Machine/Configurator.lean ====
section
/-! DEFINITION. CONFIGURE and FORCE, the mode configurator (42_mode_configurator.md). -/

namespace Sys2Proof.Machine

/-- CONFIGURE: acceptance; the sequence starts with the initial read (R150, R76). REG is ignored (R77). -/
def execConfigure (addr reg : Byte) (s : State) : Result :=
  .next (acceptCommand (encode (.configure addr reg)) (checkAddress (goto (.configure (.r1 .rd1)))) s)

/-- The part of CONFIGURE in step R1 RD.6: RDATA, V and FVAL, then the write (R150). -/
def configureValue (value : Half) (s : State) : State :=
  goto (.configure (.wr .wr1))
    { s with rdata := value, v := force12 Config.modeParams value, fval := force12 Config.modeParams value }

/-- The part of CONFIGURE in step WR.5 where the write is acknowledged: load SCNT and settle (R146, R150). -/
def configureWritten (s : State) : State :=
  goto (.configure .settle) { s with scnt := Config.settleCycles }

/-- `n` engine clocks in CF.S: each decrements SCNT, and nothing else happens (R35, R146). -/
def settleClocks (n : Nat) (s : State) : State := { s with scnt := Nat.iterate Nat.pred n s.scnt }

/-- The settling wait CF.S, one engine step (00_scope.md R13): the clocks until SCNT is 0, then the readback
(R146; log 4). -/
def settleStep (s : State) : State := goto (.configure (.r2 .rd1)) (settleClocks s.scnt s)

/-- The part of CONFIGURE in step R2 RD.6, which takes the verify decision CF.V (R147, R150, C9). -/
def configureReadback (value : Half) (s : State) : State :=
  finish (if verified Config.modeParams value then .noErr else .verify) 3#2 { s with rdata := value }

/-- The engine steps of CONFIGURE: read, write, settle, read back and verify at REG_MODE (R150). -/
def configureStep (l : CfLabel) (d : Draw) (s : State) : State :=
  match l with
  | .r1 l => rdStep Config.regMode 1#2 (fun l => .configure (.r1 l)) configureValue l d s
  | .wr l => wrStep Config.regMode 2#2 (fun l => .configure (.wr l)) configureWritten l d s
  | .settle => settleStep s
  | .r2 l => rdStep Config.regMode 3#2 (fun l => .configure (.r2 l)) configureReadback l d s

/-- FORCE: FVAL takes `force12(OPD)` and the command completes in the acceptance step (R145, R76). ADDR and
REG are ignored, and there is no address check (R77). -/
def execForce (addr reg : Byte) (s : State) : Result :=
  .next (acceptCommand (encode (.force addr reg))
    (fun s => finish .noErr 0#2 { s with fval := force12 Config.modeParams s.opd }) s)

end Sys2Proof.Machine
end

