-- ==== Sys2Proof/Machine/Decoder.lean ====
section
/-! DEFINITION. READTEMP and DECODE, the sample decoder (43_sample_decoder.md). -/

namespace Sys2Proof.Machine

/-- TEMPQ and TEMPF take the sample of a raw word, together (R28, R29, R180, R182). -/
def setSample (w : Half) (s : State) : State := { s with tempq := sampleWord w, tempf := sampleFloat w }

/-- READTEMP: acceptance; the sequence starts at RD.1 (R180, R76). REG is ignored (R77). -/
def execReadTemp (addr reg : Byte) (s : State) : Result :=
  .next (acceptCommand (encode (.readTemp addr reg)) (checkAddress (goto (.readTemp .rd1))) s)

/-- The part of READTEMP in step RD.6 (R180). -/
def readTempValue (value : Half) (s : State) : State :=
  finish .noErr 0#2 (setSample value { s with rdata := value })

/-- The engine steps of READTEMP: `RD(a7, REG_TEMP, 0)` (R180). -/
def readTempStep (l : RdLabel) (d : Draw) (s : State) : State :=
  rdStep Config.regTemp 0#2 .readTemp readTempValue l d s

/-- DECODE: TEMPQ and TEMPF take the sample of OPD and the command completes in the acceptance step (R182,
R76). ADDR and REG are ignored, and there is no address check (R77). -/
def execDecode (addr reg : Byte) (s : State) : Result :=
  .next (acceptCommand (encode (.decode addr reg)) (fun s => finish .noErr 0#2 (setSample s.opd s)) s)

end Sys2Proof.Machine
end

