-- ==== Sys2Proof/Machine/Probe.lean ====
section
/-! DEFINITION. PROBE, the presence probe (41_presence_probe.md). -/

namespace Sys2Proof.Machine

/-- PROBE: acceptance; the sequence starts at PB.1 (R131, R76). REG is ignored (R77). -/
def execProbe (addr reg : Byte) (s : State) : Result :=
  .next (acceptCommand (encode (.probe addr reg)) (checkAddress (goto (.probe .pb1))) s)

/-- The engine steps of PROBE: an address-only transaction whose acknowledge is the outcome (R130, R131). -/
def probeStep (l : PbLabel) (d : Draw) (s : State) : State :=
  match l with
  | .pb1 => goto (.probe .pb2) (tBegin s)
  | .pb2 => finish (if d.ack then .noErr else .nack) 0#2 (tEnd true d.ack s)

end Sys2Proof.Machine
end

