-- ==== Sys2Proof/Machine/Engine.lean ====
section
/-! DEFINITION. The engine: one step of the running command, at the label `fsm` names (10_state.md R33). -/

namespace Sys2Proof.Machine

/-- One engine step, the transport answering with `d`. No step is enabled in IDLE (R33; log 16). -/
def engineStep (d : Draw) (s : State) : State :=
  match s.fsm with
  | .idle => s
  | .probe l => probeStep l d s
  | .read16 l => read16Step l d s
  | .write16 l => write16Step l d s
  | .configure l => configureStep l d s
  | .readTemp l => readTempStep l d s

/-- Engine steps in a row, one for each draw. -/
def engineRun : List Draw → State → State
  | [], s => s
  | d :: ds, s => engineRun ds (engineStep d s)

end Sys2Proof.Machine
end

