-- ==== Sys2Proof/Machine/Dispatch.lean ====
section
/-! DEFINITION. The meaning of each command: the acceptance step of its word (30_encoding.md R76). The engine
steps that follow are in Machine/Engine.lean. -/

namespace Sys2Proof.Machine

def exec (i : Instr) (s : State) : Host.Outcome State Fault Refusal :=
  match i with
  | .probe addr reg => Sys2Proof.Machine.execProbe addr reg s
  | .read16 addr reg => Sys2Proof.Machine.execRead16 addr reg s
  | .write16 addr reg => Sys2Proof.Machine.execWrite16 addr reg s
  | .configure addr reg => Sys2Proof.Machine.execConfigure addr reg s
  | .readTemp addr reg => Sys2Proof.Machine.execReadTemp addr reg s
  | .force addr reg => Sys2Proof.Machine.execForce addr reg s
  | .decode addr reg => Sys2Proof.Machine.execDecode addr reg s

end Sys2Proof.Machine
end

