-- ==== Sys2Proof/WellFormed.lean ====
section
/-! DEFINITION. Which commands and which host programs are well formed. A command is well formed
where the RTE can carry it out: a bus command names a legal device address (00_scope.md R7,
30_encoding.md R79). A host program is well formed where its accesses are defined ones (20_memory.md
R50) and its labels are defined, each once (30_encoding.md R81). The machine runs ill-formed commands
too (they complete with BAD_ADDR); the decoder and the encoder do not depend on well-formedness. -/

namespace Sys2Proof

/-- Does the command use the bus (R76)? FORCE and DECODE do not. -/
def Instr.usesBus : Instr → Bool
  | .probe _ _ => true
  | .read16 _ _ => true
  | .write16 _ _ => true
  | .configure _ _ => true
  | .readTemp _ _ => true
  | .force _ _ => false
  | .decode _ _ => false

/-- The ADDR field. -/
def Instr.addr : Instr → Byte
  | .probe a _ => a
  | .read16 a _ => a
  | .write16 a _ => a
  | .configure a _ => a
  | .readTemp a _ => a
  | .force a _ => a
  | .decode a _ => a

/-- The REG field. -/
def Instr.reg : Instr → Byte
  | .probe _ r => r
  | .read16 _ r => r
  | .write16 _ r => r
  | .configure _ r => r
  | .readTemp _ r => r
  | .force _ r => r
  | .decode _ r => r

/-- ADDR[7] = 0 (R79). -/
def addrLegal (a : Byte) : Bool := !a.getLsbD 7

/-- A bus command names a legal address (R79); a local command has no address to check (R77). -/
def Instr.wellFormed (i : Instr) : Bool := !i.usesBus || addrLegal i.addr

/-- A defined access: 32 bits wide, aligned, inside the 64-byte window (R50). -/
def accessDefined (off width : Nat) : Bool := width == 4 && off % 4 == 0 && decide (off < 0x40)

/-- Every access of the program is a defined one, every label it jumps to is defined, and no label is
defined twice (R81). -/
def programWellFormed (p : List Machine.Stmt) : Bool :=
  p.all (fun st => (st.offset.map (fun off => accessDefined off 4)).getD true)
    && p.all (fun st => (st.target.map (fun l => p.contains (.label l))).getD true)
    && (p.filter (fun st => match st with | .label _ => true | _ => false)).Nodup

end Sys2Proof
end

