-- ==== Sys2Proof/Machine/Window.lean ====
section
/-! DEFINITION. The host register window (10_state.md R23, 20_memory.md R50 to R52). -/

namespace Sys2Proof.Machine

/-- The value a host read of an aligned offset returns (R23 to R31). -/
def windowRead (off : Nat) (s : State) : Word :=
  match off with
  | 0x00 => s.cmd
  | 0x04 => s.wdata.setWidth 32
  | 0x08 => statusWord s.status
  | 0x0C => s.rdata.setWidth 32
  | 0x10 => s.tempq
  | 0x14 => s.tempf
  | 0x18 => s.fval.setWidth 32
  | _ => 0#32

/-- A write to CMD: the command the word names, or ILLEGAL (R76, R78). -/
def writeCmd (c : Word) (s : State) : Result :=
  match decodeWord c with
  | .ok i => exec i s
  | .error _ => .next (acceptIllegal c s)

/-- A write to WDATA: DATA [15:0] is stored, at any time (R25). -/
def writeWdata (v : Word) (s : State) : State := { s with wdata := v.extractLsb' 0 16 }

/-- A host write to an aligned offset: CMD and WDATA act, every other offset ignores it (R31, R52). -/
def windowWrite (off : Nat) (v : Word) (s : State) : Result :=
  match off with
  | 0x00 => writeCmd v s
  | 0x04 => .next (writeWdata v s)
  | _ => .next s

/-- One host access. Only aligned 32-bit accesses inside the window are defined (R50); the rest are refused
(R51). A read changes no register; the value it returns is recorded for the host (R52, R249; log 11). -/
def hostAccess (a : Access) (s : State) : Result :=
  match a with
  | .read off width =>
    if accessDefined off width then .next { s with reads := s.reads ++ [windowRead off s] }
    else .refused (.undefinedAccess off width)
  | .write off width v =>
    if accessDefined off width then windowWrite off v s else .refused (.undefinedAccess off width)

end Sys2Proof.Machine
end

