-- ==== Sys2Proof/Machine/HostProgram.lean ====
section
/-! DEFINITION. The host agent (30_encoding.md R81): the execution of one statement of its program, and the
pseudo-instructions with their expansions (R82), and the host's boot duty and tick as programs
(70_reset_and_hazards.md R236, R237). -/

namespace Sys2Proof.Machine

/-- The offset of CMD (R23). -/
def offCmd : Nat := 0x00
/-- The offset of WDATA (R23). -/
def offWdata : Nat := 0x04
/-- The offset of STATUS (R23). -/
def offStatus : Nat := 0x08
/-- The offset of RDATA (R23). -/
def offRdata : Nat := 0x0C
/-- The offset of TEMPQ (R23). -/
def offTempq : Nat := 0x10
/-- The offset of TEMPF (R23). -/
def offTempf : Nat := 0x14
/-- The offset of FVAL (R23). -/
def offFval : Nat := 0x18

/-- The value of a host variable; one that is not assigned yet holds a free value (log 14). -/
def hostVar (x : Nat) (h : HostAgent) : Word :=
  match h.vars.find? (fun p => p.1 == x) with
  | some p => p.2
  | none => Config.freeHostVar x

/-- The value of a host expression (R81; log 14). -/
def evalExpr (e : HostExpr) (h : HostAgent) : Word :=
  match e with
  | .const w => w
  | .var x => hostVar x h

/-- Assign a host variable. -/
def setHostVar (x : Nat) (w : Word) (h : HostAgent) : HostAgent :=
  { h with vars := (x, w) :: h.vars.filter (fun p => p.1 != x) }

/-- Go on to the next statement. -/
def hostAdvance (s : State) : State := { s with host := { s.host with pos := s.host.pos + 1 } }

/-- Jump to a label of the host program; an undefined label is refused (R81; log 14). -/
def hostJump (l : Nat) (s : State) : Result :=
  match s.host.prog.findIdx? (fun st => decide (st = .label l)) with
  | some i => .next { s with host := { s.host with pos := i } }
  | none => .refused (.undefinedLabel l)

/-- Go on to the next statement after a step that answered a next state. -/
def thenAdvance (r : Result) : Result :=
  match r with
  | .next s => .next (hostAdvance s)
  | .fault f => .fault f
  | .refused f => .refused f

/-- The execution of one statement (R81). -/
def runStmt (st : Stmt) (s : State) : Result :=
  match st with
  | .label _ => .next (hostAdvance s)
  | .wr off e => thenAdvance (hostAccess (.write off 4 (evalExpr e s.host)) s)
  | .rd x off =>
    thenAdvance (hostAccess (.read off 4) { s with host := setHostVar x (windowRead off s) s.host })
  | .beq x f k l =>
    if statusFieldOf f (hostVar x s.host) = k then hostJump l s else .next (hostAdvance s)
  | .bne x f k l =>
    if statusFieldOf f (hostVar x s.host) = k then .next (hostAdvance s) else hostJump l s
  | .jmp l => hostJump l s
  | .halt => .next { s with host := { s.host with halted := true } }
  | .emit es =>
    .next (hostAdvance
      { s with host := { s.host with emitted := s.host.emitted ++ [es.map (fun e => evalExpr e s.host)] } })

/-- The statement the host executes next, unless it has halted or run past its last one (log 14). -/
def currentStmt (h : HostAgent) : Option Stmt := if h.halted then none else h.prog[h.pos]?

/-- The host's turn: its next statement, or nothing where it has none (R81). -/
def hostTurn (s : State) : Result :=
  match currentStmt s.host with
  | some st => runStmt st s
  | none => .next s

/-- `PROBE a` (R82). -/
def pseudoProbe (a : Byte) : List Stmt := [.wr offCmd (.const (encNumber 0x1 a.toNat 0))]

/-- `READ16 a, r` (R82). -/
def pseudoRead16 (a r : Byte) : List Stmt := [.wr offCmd (.const (encNumber 0x2 a.toNat r.toNat))]

/-- `WRITE16 a, r, v` (R82). -/
def pseudoWrite16 (a r : Byte) (v : HostExpr) : List Stmt :=
  [.wr offWdata v, .wr offCmd (.const (encNumber 0x3 a.toNat r.toNat))]

/-- `CONFIGURE a` (R82). -/
def pseudoConfigure (a : Byte) : List Stmt := [.wr offCmd (.const (encNumber 0x4 a.toNat 0))]

/-- `READTEMP a` (R82). -/
def pseudoReadTemp (a : Byte) : List Stmt := [.wr offCmd (.const (encNumber 0x5 a.toNat 0))]

/-- `FORCE v` (R82). -/
def pseudoForce (v : HostExpr) : List Stmt := [.wr offWdata v, .wr offCmd (.const (encNumber 0x6 0 0))]

/-- `DECODE w` (R82). -/
def pseudoDecode (w : HostExpr) : List Stmt := [.wr offWdata w, .wr offCmd (.const (encNumber 0x7 0 0))]

/-- `wait`, with a fresh label `l` and a scratch variable `x` for `_s` (R82). -/
def pseudoWait (l x : Nat) : List Stmt := [.label l, .rd x offStatus, .bne x .busy 0#32 l]

/-- `status var` (R82). -/
def pseudoStatus (x : Nat) : List Stmt := [.rd x offStatus]

/-- `is_present(a)` of R82: the result is `x.OK`. -/
def callIsPresent (a : Byte) (l x : Nat) : List Stmt := pseudoProbe a ++ pseudoWait l x ++ pseudoStatus x

/-- `read16(a, r)` of R82: the result is `(v[15:0], x.OK)`. -/
def callRead16 (a r : Byte) (l x v : Nat) : List Stmt :=
  pseudoRead16 a r ++ pseudoWait l x ++ pseudoStatus x ++ [.rd v offRdata]

/-- `write16(a, r, v)` of R82: the result is `x.OK`. -/
def callWrite16 (a r : Byte) (v : HostExpr) (l x : Nat) : List Stmt :=
  pseudoWrite16 a r v ++ pseudoWait l x ++ pseudoStatus x

/-- `configure(a)` of R82: `verified` is `x.OK`. -/
def callConfigure (a : Byte) (l x : Nat) : List Stmt := pseudoConfigure a ++ pseudoWait l x ++ pseudoStatus x

/-- `read_temperature(a)` of R82: the result is `(v as binary32, x.OK)`. -/
def callReadTemperature (a : Byte) (l x v : Nat) : List Stmt :=
  pseudoReadTemp a ++ pseudoWait l x ++ pseudoStatus x ++ [.rd v offTempf]

/-- The boot duty for the `k`-th address of the candidate list: probe; if present, configure; if that fails, emit
the address as a warning (R236). -/
def startupFor (k : Nat) (a : Byte) : List Stmt :=
  callIsPresent a (3 * k) 0 ++ [.bne 0 .ok 1#32 (3 * k + 2)] ++ callConfigure a (3 * k + 1) 0
    ++ [.bne 0 .ok 0#32 (3 * k + 2), .emit [.const (a.setWidth 32)], .label (3 * k + 2)]

/-- The startup sequence over a candidate list, in order (R236). -/
def startupProgram (candidates : List Byte) : List Stmt :=
  (candidates.zipIdx.map (fun p => startupFor p.2 p.1)).flatten ++ [.halt]

/-- One address of a tick: probe; if present, read the temperature; if that succeeds, emit the address with
TEMPF (R237). -/
def tickFor (k : Nat) (a : Byte) : List Stmt :=
  pseudoProbe a ++ pseudoWait (3 * k) 0 ++ [.bne 0 .ok 1#32 (3 * k + 2)] ++ pseudoReadTemp a
    ++ pseudoWait (3 * k + 1) 0
    ++ [.bne 0 .ok 1#32 (3 * k + 2), .rd 1 offTempf, .emit [.const (a.setWidth 32), .var 1],
        .label (3 * k + 2)]

/-- One tick over a candidate list, in order (R237). -/
def tickProgram (candidates : List Byte) : List Stmt :=
  (candidates.zipIdx.map (fun p => tickFor p.2 p.1)).flatten ++ [.halt]

end Sys2Proof.Machine
end

