-- ==== Sys2Proof/Machine/Schedule.lean ====
section
/-! DEFINITION. Which agent moves (00_scope.md R13, 10_state.md R33, 20_memory.md R62). The script in State says
it, and what the transport answers; where the script is empty the engine and the host's own program go on, and
what nothing fixes is a free value (log 1, 2, 3). -/

namespace Sys2Proof.Machine

/-- The step of one agent. -/
def runEvent (e : Event) (s : State) : Result :=
  match e with
  | .access a => hostAccess a s
  | .hostTurn => hostTurn s
  | .engine d => .next (engineStep d s)
  | .reset => .next (resetRte s)

/-- The transport's free answers (R101; log 1). -/
def freeDraw (k : Nat) : Draw :=
  { ack := Config.freeAck k, n := Config.freeCount k, byte := Config.freeByte k }

/-- Does the host have a statement to execute? -/
def hostReady (s : State) : Bool := (currentStmt s.host).isSome

/-- The agent that moves where the script is empty and a command is running: of the engine and a ready host,
a free choice (log 3). -/
def freeEvent (s : State) : Event :=
  if hostReady s && Config.freeHostFirst s.drawn then .hostTurn else .engine (freeDraw s.drawn)

/-- One step of the whole: the next event of the script; where there is none, the host's turn if the engine is
idle, else a free choice, which uses up one free value. -/
def advance (s : State) : Result :=
  match s.script with
  | e :: rest => runEvent e { s with script := rest }
  | [] => if s.fsm = .idle then hostTurn s else runEvent (freeEvent s) { s with drawn := s.drawn + 1 }

/-- The next step is the host's write of `c` to CMD (log 15). -/
def scheduleCommand (c : Word) (s : State) : State :=
  { s with script := .access (.write 0 4 c) :: s.script }

end Sys2Proof.Machine
end

