-- ==== Sys2Proof/Machine/Step.lean ====
section
/-! DEFINITION. One step of the machine, and how a command is placed where the next step takes it. -/

namespace Sys2Proof.Machine

/-- One atomic step of one agent (00_scope.md R13, 10_state.md R33). -/
def step (s : State) : Host.Outcome State Fault Refusal := advance s

/-- The command word `w` as the host's next access: the next step is its acceptance (30_encoding.md R76;
log 15). -/
def State.withFetchWord (s : State) (nbits w : Nat) : State := scheduleCommand (tableWord nbits w) s

end Sys2Proof.Machine
end

