-- ==== Sys2Proof/Safety.lean ====
section
/-! DEFINITION. What is true of the machine in every state a run can reach (the invariant), how long a command
can still take, when a run has ended, the host's and the platform's duties, and the exact value of a binary32
pattern: the terms the claims use. -/

namespace Sys2Proof.Machine

/-- The legal STATUS combinations: idle after reset, in progress, completed (10_state.md R26). -/
def StatusLegal (st : Status) : Prop :=
  st = Status.zero ∨ st = statusInProgress ∨
    (st.busy = false ∧ st.done = true ∧ st.ok = decide (st.err = .noErr))

/-- The opcode of the command the sequencer is running, if any (R32). -/
def fsmOpcode : Fsm → Option (BitVec 4)
  | .idle => none
  | .probe _ => some 0x1#4
  | .read16 _ => some 0x2#4
  | .write16 _ => some 0x3#4
  | .configure _ => some 0x4#4
  | .readTemp _ => some 0x5#4

/-- Is the sequencer between an acknowledged `T_END(false)` and its `T_REQUEST` (R36)? -/
def waitsRequest : Fsm → Bool
  | .read16 .rd4 => true
  | .readTemp .rd4 => true
  | .configure (.r1 .rd4) => true
  | .configure (.r2 .rd4) => true
  | _ => false

/-- Is CONFIGURE past its initial read (R150)? -/
def afterForcing : Fsm → Bool
  | .configure (.wr _) => true
  | .configure .settle => true
  | .configure (.r2 _) => true
  | _ => false

/-- What is true in every state a run from reset can reach. -/
structure RteInv (s : State) : Prop where
  /-- `fsm = IDLE` if and only if BUSY = 0 (R32). -/
  idle_iff : s.fsm = .idle ↔ s.status.busy = false
  /-- STATUS is one of the legal combinations (R26). -/
  status_legal : StatusLegal s.status
  /-- PHASE is 0 unless CONFIGURE failed on the bus or in its verify (R201). -/
  phase_zero : recordsPhase s.status.err = false ∨ isConfigure s = false → s.status.phase = 0#2
  /-- A failed step of CONFIGURE is named by PHASE 1, 2 or 3 (R201). -/
  phase_named : recordsPhase s.status.err = true → isConfigure s = true → s.status.phase ≠ 0#2
  /-- VERIFY is an error of CONFIGURE in phase 3 (R200). -/
  verify_phase : s.status.err = .verify → isConfigure s = true ∧ s.status.phase = 3#2
  /-- CMD and CMDL are equal (R34). -/
  cmd_latched : s.cmd = s.cmdl
  /-- A running sequence is that of the latched command, whose address is legal (R32, R79). -/
  runs_command : ∀ op, fsmOpcode s.fsm = some op →
    ∃ i, decodeWord s.cmdl = .ok i ∧ opcodeOf i = op ∧ i.wellFormed = true
  /-- TEMPQ bits [31:12] equal bit 11 (R28). -/
  tempq_extended : s.tempq = (s.tempq.extractLsb' 0 12).signExtend 32
  /-- TEMPF encodes the same sample as TEMPQ (R29). -/
  temp_pair : s.tempf = f32 s.tempq.toInt
  /-- SCNT never exceeds SETTLE_CYCLES (R35). -/
  settle_bound : s.scnt ≤ Config.settleCycles
  /-- SCNT is loaded with SETTLE_CYCLES on entry to the settling wait (R35, R146). -/
  settle_loaded : s.fsm = .configure .settle → s.scnt = Config.settleCycles
  /-- SCNT is 0 outside the settling wait (R35, R146). -/
  settle_only : s.fsm ≠ .configure .settle → s.scnt = 0
  /-- WRITE16 sends the operand latched at acceptance (R34, R111). -/
  write_operand : ∀ l, s.fsm = .write16 l → s.v = s.opd
  /-- CONFIGURE writes FVAL, the forced value of its initial read, which RDATA holds (R30, R150). -/
  forced_value : afterForcing s.fsm = true →
    s.v = s.fval ∧ s.fval = force12 Config.modeParams s.rdata
  /-- The bus is held between an acknowledged select and its request (R36). -/
  bus_held : waitsRequest s.fsm = true → s.busHeld = true

/-- Steps left in a register read (R105). -/
def rdLeft : RdLabel → Nat
  | .rd1 => 6
  | .rd2 => 5
  | .rd3 => 4
  | .rd4 => 3
  | .rd5 => 2
  | .rd6 => 1

/-- Steps left in a register write (R106). -/
def wrLeft : WrLabel → Nat
  | .wr1 => 5
  | .wr2 => 4
  | .wr3 => 3
  | .wr4 => 2
  | .wr5 => 1

/-- Steps left in a probe (R130). -/
def pbLeft : PbLabel → Nat
  | .pb1 => 2
  | .pb2 => 1

/-- How many engine steps the running command can still take at most. -/
def stepsLeft (s : State) : Nat :=
  match s.fsm with
  | .idle => 0
  | .probe l => pbLeft l
  | .read16 l => rdLeft l
  | .write16 l => wrLeft l
  | .configure (.r1 l) => rdLeft l + 5 + 1 + 6
  | .configure (.wr l) => wrLeft l + 1 + 6
  | .configure .settle => 1 + 6
  | .configure (.r2 l) => rdLeft l
  | .readTemp l => rdLeft l

/-- A run of a host program has ended (70_reset_and_hazards.md R250). -/
def runEnded (s : State) : Bool := s.host.halted && decide (s.fsm = .idle)

/-- The host may use the result registers (R242): the last command completed with OK. -/
def resultUsable (s : State) : Bool := s.status.done && s.status.ok

/-- The host's own program moves in this step: it is the next event of the script, or the script is empty and the
engine is idle or the free choice falls on the host (R13, R33; log 2, 3). -/
def hostMoves (s : State) : Prop :=
  s.script.head? = some .hostTurn ∨ (s.script = [] ∧ (s.fsm = .idle ∨ freeEvent s = .hostTurn))

/-- This step is the host's write of `c` to CMD: an access from outside, or the statement of its program (R50, R81). -/
def writesCmd (s : State) (c : Word) : Prop :=
  s.script.head? = some (.access (.write 0x00 4 c)) ∨
    (hostMoves s ∧ ∃ e, currentStmt s.host = some (.wr 0x00 e) ∧ evalExpr e s.host = c)

/-- The step from `s` to `t` is one engine step, and nothing else: only the event is taken off the script, or the
free value is counted (R33; log 2, 3). -/
def tookEngineStep (s t : State) : Prop :=
  (∃ d rest, s.script = .engine d :: rest ∧ t = engineStep d { s with script := rest }) ∨
    (s.script = [] ∧ s.fsm ≠ .idle ∧ ∃ d, t = engineStep d { s with drawn := s.drawn + 1 })

/-- What a jump of the host program to the label `l` answers: the host stands at the first place that defines the
label, and a label that is defined nowhere is refused (R81; log 14). -/
def JumpsTo (l : Nat) (s : State) (r : Result) : Prop :=
  (∀ k, s.host.prog[k]? = some (.label l) → (∀ j, j < k → s.host.prog[j]? ≠ some (.label l)) →
    r = .next { s with host := { s.host with pos := k } }) ∧
  (Stmt.label l ∉ s.host.prog → r = .refused (.undefinedLabel l))

/-- The transport acknowledges a register select and returns the two bytes of `w` (R105). -/
def AnswersRead (w : Half) (ds : List Draw) : Prop :=
  ∃ d1 d2 d3 d4 d5 d6 : Draw,
    ds = [d1, d2, d3, d4, d5, d6] ∧ d3.ack = true ∧ d4.n = 2 ∧ d5.byte ++ d6.byte = w

/-- The transport acknowledges a register write (R106). -/
def AnswersWrite (ds : List Draw) : Prop :=
  ∃ d1 d2 d3 d4 d5 : Draw, ds = [d1, d2, d3, d4, d5] ∧ d5.ack = true

/-- The transport's answers to a CONFIGURE that reads `v`, writes, settles and reads back `rb` (R150). -/
def AnswersConfigure (v rb : Half) (ds : List Draw) : Prop :=
  ∃ (read write : List Draw) (wait : Draw) (readback : List Draw),
    ds = read ++ write ++ [wait] ++ readback ∧ AnswersRead v read ∧ AnswersWrite write ∧
      AnswersRead rb readback

/-- What a device that stores every write but for its read-only bits `ro` holds after `x` is written over `old`
(42_mode_configurator.md R151). -/
def storedValue (ro old x : Half) : Half := (x &&& ~~~ro) ||| (old &&& ro)

/-- The host keeps the duty of R240 in this step: it writes CMD only where BUSY = 0. -/
def issuesWhenIdle (s : State) : Bool :=
  match s.script with
  | .access (.write 0x00 4 _) :: _ => !s.status.busy
  | _ => true

/-- The transport owes a bus release before the next `T_BEGIN` (R243): the bus is held with no request to come,
or the last select failed. -/
def releaseOwed (s : State) : Bool :=
  (s.busHeld && !waitsRequest s.fsm) || decide (s.busLog.getLast? = some (.tEnd false false))

/-- The exact value of a binary32 pattern that is zero or normal: sign [31], exponent [30:23] with bias 127,
fraction [22:0] (R174; the layout is general knowledge, G2). -/
def f32Value (w : Word) : ℚ :=
  if w.extractLsb' 0 31 = 0#31 then 0
  else
    (if w.getLsbD 31 then -1 else 1) * (1 + ((w.extractLsb' 0 23).toNat : ℚ) / 2 ^ 23)
      * 2 ^ (((w.extractLsb' 23 8).toNat : ℤ) - 127)

/-- STATUS of a command that completed without error: DONE and OK. -/
def statusOk : Status := { busy := false, done := true, ok := true, err := .noErr, phase := 0#2 }

/-- STATUS of a command that completed with an error in a phase. -/
def statusErr (e : ErrCode) (phase : BitVec 2) : Status :=
  { busy := false, done := true, ok := false, err := e, phase := phase }

/-- A state in which the word `c` has been accepted as the current command: CMD, CMDL, OPD (R76). -/
def withCommand (c : Word) (s : State) : State := { s with cmd := c, cmdl := c, opd := s.wdata }

/-- A completed command: the sequencer idle, STATUS as given, and these primitives issued (R203). -/
def completed (st : Status) (issued : List Prim) (s : State) : State :=
  { s with status := st, fsm := .idle, busLog := s.busLog ++ issued }

/-- The bus is released and nothing was received (R112). -/
def released (s : State) : State := { s with busHeld := false }

/-- Two bytes were received: HI has the first and RDATA both, the first one upper, and the bus is released
(R104, R105, R112). -/
def received (b1 b2 : Byte) (s : State) : State := { s with busHeld := false, hi := b1, rdata := b1 ++ b2 }

/-- V and FVAL hold a forced value (R150). -/
def holding (forced : Half) (s : State) : State := { s with v := forced, fval := forced }

/-- The settle counter has run out (R146). -/
def settled (s : State) : State := { s with scnt := 0 }

/-- The primitives of a select of register `r` with the transport's acknowledge (R105, RD.1 to RD.3). -/
def selectPrims (a7 : Addr7) (r : Byte) (ack : Bool) : List Prim :=
  [.tBegin a7, .tWrite r, .tEnd false ack]

/-- The primitives of a whole register read that received two bytes (R105). -/
def readPrims (a7 : Addr7) (r b1 b2 : Byte) : List Prim :=
  [.tBegin a7, .tWrite r, .tEnd false true, .tRequest a7 2 2, .tRead b1, .tRead b2]

/-- The primitives of a register read that obtained `n` bytes and not two (R105, R108). -/
def shortPrims (a7 : Addr7) (r : Byte) (n : Fin 3) : List Prim :=
  [.tBegin a7, .tWrite r, .tEnd false true, .tRequest a7 2 n]

/-- The primitives of a register write with the acknowledge of its end (R106). -/
def writePrims (a7 : Addr7) (r : Byte) (value : Half) (ack : Bool) : List Prim :=
  [.tBegin a7, .tWrite r, .tWrite (value.extractLsb' 8 8), .tWrite (value.extractLsb' 0 8), .tEnd true ack]

end Sys2Proof.Machine
end

