-- ==== Sys2Proof/Certificates/Slice0/Obligations.lean ====
section
/-! DEFINITION. The statements about the RTE, from the numbered rules of spec/. They are statements only; their
proofs are elsewhere. `d`, `d1`, ... are the transport's answers, one for each engine step; they are never
constrained (40_bus_primitive.md R101). -/

open Sys2Proof Sys2Proof.Machine

/-! ### Reset -/

/-- `rst` at any step, whatever the engine is doing, leaves every register and latch 0 and the sequencer IDLE, and
changes nothing outside the RTE: not the bus, not the host, not the steps to come (R38). That the model's own lists and
counters (the recorded primitives and reads, the script, the count of free values, the host) survive the reset is the
model's choice (log 11, log 2, log 3, log 14). -/
def Obligations.ResetStepClearsEveryRegister : Prop :=
  ∀ (s : State) (rest : List Event), s.script = .reset :: rest →
    ∃ t, step s = .next t ∧ (∀ off, windowRead off t = 0#32) ∧
      t.fsm = .idle ∧ t.cmdl = 0#32 ∧ t.opd = 0#16 ∧ t.hi = 0#8 ∧ t.v = 0#16 ∧ t.scnt = 0 ∧
      t.busHeld = s.busHeld ∧ t.busLog = s.busLog ∧ t.reads = s.reads ∧ t.script = rest ∧
      t.drawn = s.drawn ∧ t.host = s.host

/-- State.reset itself: the window reads 0 everywhere, the latches are 0, the sequencer is IDLE (R38). -/
def Obligations.PowerOnStateIsClear : Prop :=
  (∀ off, windowRead off State.reset = 0#32) ∧ State.reset.fsm = .idle ∧ State.reset.cmdl = 0#32 ∧
    State.reset.opd = 0#16 ∧ State.reset.hi = 0#8 ∧ State.reset.v = 0#16 ∧ State.reset.scnt = 0

/-! ### The invariant -/

/-- The invariant of Safety.lean holds at reset. -/
def Obligations.InvHoldsAtReset : Prop := RteInv State.reset

/-- Every step of every agent keeps the invariant, under every schedule and every answer of the transport. -/
def Obligations.EveryStepKeepsInv : Prop := ∀ s t : State, RteInv s → step s = .next t → RteInv t

/-- SCNT fits the width of R35, ⌈log2(SETTLE_CYCLES + 1)⌉ bits. -/
def Obligations.SettleCounterFitsItsWidth : Prop :=
  ∀ s : State, RteInv s → s.scnt < 2 ^ Nat.clog 2 (Config.settleCycles + 1)

/-! ### Encoding -/

/-- Decode and encode agree in both directions: every command's word decodes to it with both fields as they are, and
a word that decodes is the word of its command, so no word has two meanings and no bit is dropped. -/
def Obligations.DecodeEncodeAgree : Prop :=
  (∀ i : Instr, decodeWord (encode i) = .ok i) ∧
    (∀ (c : Word) (i : Instr), decodeWord c = .ok i → encode i = c)

/-- A word is rejected exactly where OP is 0 or 8 to 15, or a reserved field is not 0 (R71, R74). -/
def Obligations.RejectsExactlyTheIllegalWords : Prop :=
  ∀ c : Word, (∃ r, decodeWord c = .error r) ↔
    ((c.extractLsb' 0 4).toNat = 0 ∨ 8 ≤ (c.extractLsb' 0 4).toNat ∨ c.extractLsb' 4 4 ≠ 0#4 ∨
      c.extractLsb' 24 8 ≠ 0#8)

/-- The decoder is the table's mask and match, with ADDR in [15:8] and REG in [23:16] (R75). -/
def Obligations.DecoderMatchesMaskAndMatch : Prop :=
  ∀ (c : Word) (i : Instr), decodeWord c = .ok i ↔
    (c &&& 0xFF0000FF#32 = tableMatch i ∧ i.addr = c.extractLsb' 8 8 ∧ i.reg = c.extractLsb' 16 8)

/-- The eighteen words of the table of V-ENC (95_test_vectors.md) decode as it says; the decoder makes no address check, so
the two BAD_ADDR words decode to their commands. -/
def Obligations.ListedWordsDecode : Prop :=
  decodeWord 0x00004801#32 = .ok (.probe 0x48#8 0x00#8) ∧
  decodeWord 0x00FF4801#32 = .ok (.probe 0x48#8 0xFF#8) ∧
  decodeWord 0x00014802#32 = .ok (.read16 0x48#8 0x01#8) ∧
  decodeWord 0x00014803#32 = .ok (.write16 0x48#8 0x01#8) ∧
  decodeWord 0x00004804#32 = .ok (.configure 0x48#8 0x00#8) ∧
  decodeWord 0x00AA4805#32 = .ok (.readTemp 0x48#8 0xAA#8) ∧
  decodeWord 0x00000006#32 = .ok (.force 0x00#8 0x00#8) ∧
  decodeWord 0x00FFFF07#32 = .ok (.decode 0xFF#8 0xFF#8) ∧
  decodeWord 0x00000000#32 = .error (.illegalOp 0x0#4) ∧
  decodeWord 0x00000008#32 = .error (.illegalOp 0x8#4) ∧
  decodeWord 0x0000480F#32 = .error (.illegalOp 0xF#4) ∧
  decodeWord 0x00004811#32 = .error (.reserved0 0x1#4) ∧
  decodeWord 0x01004801#32 = .error (.reserved1 0x01#8) ∧
  decodeWord 0x81008001#32 = .error (.reserved1 0x81#8) ∧
  decodeWord 0x00008001#32 = .ok (.probe 0x80#8 0x00#8) ∧
  decodeWord 0x0000FF05#32 = .ok (.readTemp 0xFF#8 0x00#8) ∧
  decodeWord 0x00007F01#32 = .ok (.probe 0x7F#8 0x00#8) ∧
  decodeWord 0x00000001#32 = .ok (.probe 0x00#8 0x00#8)

/-- `enc(op, a, r)` of R82 is the word of the command, for every address and register. -/
def Obligations.PseudoInstructionsWriteTheCommandWord : Prop :=
  ∀ (a r : Byte) (v : HostExpr),
    pseudoProbe a = [.wr 0x00 (.const (encode (.probe a 0#8)))] ∧
    pseudoRead16 a r = [.wr 0x00 (.const (encode (.read16 a r)))] ∧
    pseudoWrite16 a r v = [.wr 0x04 v, .wr 0x00 (.const (encode (.write16 a r)))] ∧
    pseudoConfigure a = [.wr 0x00 (.const (encode (.configure a 0#8)))] ∧
    pseudoReadTemp a = [.wr 0x00 (.const (encode (.readTemp a 0#8)))] ∧
    pseudoForce v = [.wr 0x04 v, .wr 0x00 (.const (encode (.force 0#8 0#8)))] ∧
    pseudoDecode v = [.wr 0x04 v, .wr 0x00 (.const (encode (.decode 0#8 0#8)))]

/-! ### The step: what runs when -/

/-- Where the host's next access writes to CMD a word that decodes to `i`, the step is `exec i`; the step only takes
the access off the script. -/
def Obligations.StepRunsTheDecodedCommand : Prop :=
  ∀ (s : State) (rest : List Event) (c : Word) (i : Instr),
    s.script = .access (.write 0x00 4 c) :: rest → decodeWord c = .ok i →
      step s = exec i { s with script := rest }

/-- Each event of the script is the step of its agent: a host access from outside is that access, the host's turn is its
program's statement, an engine event is one engine step with its answer, a reset is the reset. With an empty script an
idle engine leaves the turn to the host's program, and a running one is either that or an engine step with free answers
(log 1, 2, 3: the script and the free schedule are the model's). -/
def Obligations.StepFollowsTheSchedule : Prop :=
  ∀ s : State,
    (∀ a rest, s.script = .access a :: rest → step s = hostAccess a { s with script := rest }) ∧
    (∀ rest, s.script = .hostTurn :: rest → step s = hostTurn { s with script := rest }) ∧
    (∀ d rest, s.script = .engine d :: rest → step s = .next (engineStep d { s with script := rest })) ∧
    (∀ rest, s.script = .reset :: rest → step s = .next (resetRte { s with script := rest })) ∧
    (s.script = [] → s.fsm = .idle → step s = hostTurn s) ∧
    (s.script = [] → s.fsm ≠ .idle →
      (step s = hostTurn { s with drawn := s.drawn + 1 } ∧ hostReady s = true) ∨
        (∃ d, step s = .next (engineStep d { s with drawn := s.drawn + 1 })))

/-- A run of the machine whose script gives the engine every turn is the run of its engine steps. -/
def Obligations.ScriptedStepsAreTheEngineRun : Prop :=
  ∀ (ds : List Draw) (rest : List Event) (s : State),
    s.script = ds.map Event.engine ++ rest →
      Host.Core.run core ds.length s = .next (engineRun ds { s with script := rest })

/-! ### Acceptance -/

/-- A CMD write while BUSY = 1 is ignored: no register changes, whatever the word (R83). -/
def Obligations.CommandWhileBusyIsIgnored : Prop :=
  ∀ (s : State) (rest : List Event) (c : Word), s.status.busy = true →
    s.script = .access (.write 0x00 4 c) :: rest → step s = .next { s with script := rest }

/-- An illegal word is accepted into CMD and completes at once with ERR = ILLEGAL, whatever its other bits; no
primitive is issued and no result register changes (R78). -/
def Obligations.IllegalWordCompletesAtOnce : Prop :=
  ∀ (s : State) (rest : List Event) (c : Word), s.status.busy = false →
    s.script = .access (.write 0x00 4 c) :: rest →
    ((c.extractLsb' 0 4).toNat = 0 ∨ 8 ≤ (c.extractLsb' 0 4).toNat ∨ c.extractLsb' 4 4 ≠ 0#4 ∨
      c.extractLsb' 24 8 ≠ 0#8) →
    step s = .next { s with script := rest, cmd := c, cmdl := c, opd := s.wdata, fsm := .idle,
                            status := { busy := false, done := true, ok := false, err := .illegal,
                                        phase := 0#2 } } ∧
      statusWord (statusErr .illegal 0#2) = 0x00000102#32

/-- A bus command with ADDR[7] = 1 completes at acceptance with ERR = BAD_ADDR and no bus traffic; a local command
makes no address check (R79, R77: ADDR ≥ 0x80 is illegal because a bus address is 7 bits, which the spec marks as
general knowledge, G3). -/
def Obligations.BadAddressCompletesAtOnce : Prop :=
  (∀ (i : Instr) (s : State), s.status.busy = false → i.usesBus = true → 0x80 ≤ i.addr.toNat →
    exec i s = .next { s with cmd := encode i, cmdl := encode i, opd := s.wdata, fsm := .idle,
                              status := { busy := false, done := true, ok := false, err := .badAddr,
                                          phase := 0#2 } }) ∧
  (∀ (i : Instr) (s t : State), s.status.busy = false → i.usesBus = false →
    exec i s = .next t → t.status = statusOk)

/-- A bus command with a legal address is accepted: its word and the operand are latched, STATUS is in progress (BUSY
alone is 1, and the host reads 0x00000001), and the sequencer stands at the first step of its sequence; WRITE16 also
loads V (R76). -/
def Obligations.BusCommandsAreAccepted : Prop :=
  ∀ (s : State) (addr reg : Byte), s.status.busy = false → addr.toNat < 0x80 →
    exec (.probe addr reg) s = .next
      { withCommand (encode (.probe addr reg)) s with
        status := statusInProgress, fsm := .probe .pb1 } ∧
    exec (.read16 addr reg) s = .next
      { withCommand (encode (.read16 addr reg)) s with
        status := statusInProgress, fsm := .read16 .rd1 } ∧
    exec (.write16 addr reg) s = .next
      { withCommand (encode (.write16 addr reg)) s with
        status := statusInProgress, v := s.wdata, fsm := .write16 .wr1 } ∧
    exec (.configure addr reg) s = .next
      { withCommand (encode (.configure addr reg)) s with
        status := statusInProgress, fsm := .configure (.r1 .rd1) } ∧
    exec (.readTemp addr reg) s = .next
      { withCommand (encode (.readTemp addr reg)) s with
        status := statusInProgress, fsm := .readTemp .rd1 } ∧
    statusInProgress = { busy := true, done := false, ok := false, err := .noErr, phase := 0#2 } ∧
    statusWord statusInProgress = 0x00000001#32

/-- FORCE completes in the acceptance step with FVAL = `force12(OPD)` and no bus traffic, for every ADDR and REG; no
other result register changes (R145). -/
def Obligations.ForceCompletesWithTheForcedValue : Prop :=
  ∀ (s : State) (addr reg : Byte), s.status.busy = false →
    exec (.force addr reg) s = .next
      { withCommand (encode (.force addr reg)) s with
        fval := (s.wdata &&& ~~~(Config.modeParams.resMask ||| Config.modeParams.shdnMask |||
            Config.modeParams.rateMask)) ||| Config.modeParams.resMask ||| Config.modeParams.rate1sps,
        status := { busy := false, done := true, ok := true, err := .noErr, phase := 0#2 },
        fsm := .idle }

/-- DECODE completes in the acceptance step with TEMPQ and TEMPF of OPD and no bus traffic, for every ADDR and REG and
every operand; RDATA and FVAL do not change (R182). -/
def Obligations.DecodeCompletesWithTheSample : Prop :=
  ∀ (s : State) (addr reg : Byte), s.status.busy = false →
    exec (.decode addr reg) s = .next
      { withCommand (encode (.decode addr reg)) s with
        tempq := (s.wdata.extractLsb' 4 12).signExtend 32,
        tempf := f32 (s.wdata.extractLsb' 4 12).toInt,
        status := { busy := false, done := true, ok := true, err := .noErr, phase := 0#2 },
        fsm := .idle }

/-- What acceptance leaves unchanged, for every command in every state: WDATA, RDATA, HI, SCNT, the bus and its log,
the host's side; FVAL unless FORCE, TEMPQ and TEMPF unless DECODE, V unless WRITE16. -/
def Obligations.AcceptanceFrame : Prop :=
  ∀ (i : Instr) (s t : State), exec i s = .next t →
    t.wdata = s.wdata ∧ t.rdata = s.rdata ∧ t.hi = s.hi ∧ t.scnt = s.scnt ∧ t.busHeld = s.busHeld ∧
    t.busLog = s.busLog ∧ t.reads = s.reads ∧ t.script = s.script ∧ t.drawn = s.drawn ∧
    t.host = s.host ∧
    (opcodeOf i ≠ 0x6#4 → t.fval = s.fval) ∧
    (opcodeOf i ≠ 0x7#4 → t.tempq = s.tempq ∧ t.tempf = s.tempf) ∧
    (opcodeOf i ≠ 0x3#4 → t.v = s.v)

/-! ### Whole commands -/

/-- PROBE: a transaction of `T_BEGIN` and `T_END(true)` with no data, whose acknowledge is the outcome; nothing but
STATUS and the command registers changes (R130). -/
def Obligations.ProbeReportsTheAcknowledge : Prop :=
  ∀ (s : State) (addr reg : Byte), s.status.busy = false → addr.toNat < 0x80 →
    ∃ t, exec (.probe addr reg) s = .next t ∧ t.fsm = .probe .pb1 ∧
      ∀ d1 d2 : Draw,
        engineRun [d1, d2] t =
          completed (if d2.ack then statusOk else statusErr .nack 0#2)
            [.tBegin (addr.extractLsb' 0 7), .tEnd true d2.ack]
            (withCommand (encode (.probe addr reg)) s)

/-- READ16, for every answer of the transport: NACK after an unacknowledged select, SHORT_READ after a count other than
2, else RDATA takes the two bytes, the first one upper; a failed READ16 leaves RDATA (R105, R110). `T_REQUEST` leaves
the bus released (R36, R112, which the spec marks as general knowledge, G5; log 18). -/
def Obligations.Read16ReturnsTheDeviceRegister : Prop :=
  ∀ (s : State) (addr reg : Byte), s.status.busy = false → addr.toNat < 0x80 →
    ∃ t, exec (.read16 addr reg) s = .next t ∧ t.fsm = .read16 .rd1 ∧
      ∀ d1 d2 d3 d4 d5 d6 : Draw,
        engineRun [d1, d2, d3, d4, d5, d6] t =
          if d3.ack = false then
            completed (statusErr .nack 0#2) (selectPrims (addr.extractLsb' 0 7) reg false)
              (withCommand (encode (.read16 addr reg)) s)
          else if d4.n ≠ 2 then
            completed (statusErr .shortRead 0#2) (shortPrims (addr.extractLsb' 0 7) reg d4.n)
              (released (withCommand (encode (.read16 addr reg)) s))
          else
            completed statusOk (readPrims (addr.extractLsb' 0 7) reg d5.byte d6.byte)
              (received d5.byte d6.byte (withCommand (encode (.read16 addr reg)) s))

/-- WRITE16, for every answer: the select byte and then the operand's upper and lower byte are sent, and the
acknowledge of the final `T_END` alone decides; RDATA, FVAL, TEMPQ and TEMPF do not change (R106, R111). -/
def Obligations.Write16SendsTheOperand : Prop :=
  ∀ (s : State) (addr reg : Byte), s.status.busy = false → addr.toNat < 0x80 →
    ∃ t, exec (.write16 addr reg) s = .next t ∧ t.fsm = .write16 .wr1 ∧
      ∀ d1 d2 d3 d4 d5 : Draw,
        engineRun [d1, d2, d3, d4, d5] t =
          completed (if d5.ack then statusOk else statusErr .nack 0#2)
            (writePrims (addr.extractLsb' 0 7) reg s.wdata d5.ack)
            { withCommand (encode (.write16 addr reg)) s with v := s.wdata }

/-- READTEMP, for every answer: as READ16 at REG_TEMP = 0x00 whatever REG is, and on success TEMPQ and TEMPF take the
sample in the same step; on failure they keep the previous sample (R180). `T_REQUEST` leaves the bus released (R36,
R112, which the spec marks as general knowledge, G5; log 18). -/
def Obligations.ReadTempDecodesTheSample : Prop :=
  ∀ (s : State) (addr reg : Byte), s.status.busy = false → addr.toNat < 0x80 →
    ∃ t, exec (.readTemp addr reg) s = .next t ∧ t.fsm = .readTemp .rd1 ∧
      ∀ d1 d2 d3 d4 d5 d6 : Draw,
        engineRun [d1, d2, d3, d4, d5, d6] t =
          if d3.ack = false then
            completed (statusErr .nack 0#2) (selectPrims (addr.extractLsb' 0 7) 0x00#8 false)
              (withCommand (encode (.readTemp addr reg)) s)
          else if d4.n ≠ 2 then
            completed (statusErr .shortRead 0#2) (shortPrims (addr.extractLsb' 0 7) 0x00#8 d4.n)
              (released (withCommand (encode (.readTemp addr reg)) s))
          else
            completed statusOk (readPrims (addr.extractLsb' 0 7) 0x00#8 d5.byte d6.byte)
              { received d5.byte d6.byte (withCommand (encode (.readTemp addr reg)) s) with
                tempq := ((d5.byte ++ d6.byte).extractLsb' 4 12).signExtend 32,
                tempf := f32 ((d5.byte ++ d6.byte).extractLsb' 4 12).toInt }

/-- CONFIGURE, for every answer of the transport, from acceptance to completion: the initial read (PHASE 1 on failure),
the forced value written back (PHASE 2), the settling wait, one engine step (`wait`), and the readback with the verify
decision (PHASE 3) (R150, R13). `T_REQUEST` leaves the bus released (R36, R112, which the spec marks as general
knowledge, G5; log 18). -/
def Obligations.ConfigureForcesAndVerifies : Prop :=
  ∀ (s : State) (addr reg : Byte), s.status.busy = false → addr.toNat < 0x80 →
    ∃ t, exec (.configure addr reg) s = .next t ∧ t.fsm = .configure (.r1 .rd1) ∧
      ∀ (r1 r2 r3 r4 r5 r6 w1 w2 w3 w4 w5 wait q1 q2 q3 q4 q5 q6 : Draw),
        let a7 : Addr7 := addr.extractLsb' 0 7
        let base := withCommand (encode (.configure addr reg)) s
        let forced : Half := force12 Config.modeParams (r5.byte ++ r6.byte)
        let readback : Half := q5.byte ++ q6.byte
        let read := readPrims a7 0x01#8 r5.byte r6.byte
        let written := holding forced (received r5.byte r6.byte base)
        engineRun ([r1, r2, r3, r4, r5, r6] ++ [w1, w2, w3, w4, w5] ++ [wait] ++
            [q1, q2, q3, q4, q5, q6]) t =
          if r3.ack = false then
            completed (statusErr .nack 1#2) (selectPrims a7 0x01#8 false) base
          else if r4.n ≠ 2 then
            completed (statusErr .shortRead 1#2) (shortPrims a7 0x01#8 r4.n) (released base)
          else if w5.ack = false then
            completed (statusErr .nack 2#2) (read ++ writePrims a7 0x01#8 forced false) written
          else if q3.ack = false then
            completed (statusErr .nack 3#2)
              (read ++ writePrims a7 0x01#8 forced true ++ selectPrims a7 0x01#8 false) (settled written)
          else if q4.n ≠ 2 then
            completed (statusErr .shortRead 3#2)
              (read ++ writePrims a7 0x01#8 forced true ++ shortPrims a7 0x01#8 q4.n) (settled written)
          else
            completed
              (if readback &&& Config.modeParams.resMask = Config.modeParams.resMask then statusOk
                else statusErr .verify 3#2)
              (read ++ writePrims a7 0x01#8 forced true ++ readPrims a7 0x01#8 q5.byte q6.byte)
              (received q5.byte q6.byte (settled written))

/-- The settling wait: an acknowledged write loads SCNT with SETTLE_CYCLES; each engine clock decrements it; and the
engine step of CF.S leaves it at 0, goes on to the readback, issues nothing and changes nothing else (R146, R35, R13;
log 4). -/
def Obligations.SettleWaitCountsDown : Prop :=
  ∀ (s : State) (d : Draw),
    (s.fsm = .configure (.wr .wr5) → d.ack = true →
      (engineStep d s).scnt = Config.settleCycles ∧ (engineStep d s).fsm = .configure .settle) ∧
    (∀ n, settleClocks n s = { s with scnt := s.scnt - n }) ∧
    (s.fsm = .configure .settle → engineStep d s = { settleClocks s.scnt s with fsm := .configure (.r2 .rd1) }) ∧
    (s.fsm = .configure .settle → engineStep d s = { s with scnt := 0, fsm := .configure (.r2 .rd1) })

/-- Every command ends: whatever the transport answers, a running command completes within the bound of `stepsLeft`
engine steps, with DONE = 1, BUSY = 0 and the sequencer IDLE. That each primitive is answered is assumed (R109,
log 12), and the bound counts the settling wait as one engine step (R13, log 4). -/
def Obligations.EveryCommandCompletes : Prop :=
  ∀ (s : State) (ds : List Draw), RteInv s → s.status.busy = true → stepsLeft s ≤ ds.length →
    (engineRun ds s).fsm = .idle ∧ (engineRun ds s).status.busy = false ∧
      (engineRun ds s).status.done = true

/-! ### The data paths -/

/-- The masking laws of `force12`, for every parameter set and every value (R142). -/
def Obligations.ForceMasksExactlyTheFields : Prop :=
  ∀ (p : ModeParams) (v : Half),
    force12 p v &&& p.resMask = p.resMask ∧ force12 p v &&& p.shdnMask = 0#16 ∧
    force12 p v &&& p.rateMask = p.rate1sps ∧
    force12 p v &&& ~~~(p.resMask ||| p.shdnMask ||| p.rateMask) =
      v &&& ~~~(p.resMask ||| p.shdnMask ||| p.rateMask)

/-- Forcing twice is forcing once (R143). -/
def Obligations.ForceIsIdempotent : Prop :=
  ∀ (p : ModeParams) (v : Half), force12 p (force12 p v) = force12 p v

/-- The verify decision looks at the resolution field alone, bit by bit, and the forced value passes it (R147). -/
def Obligations.VerifyLooksAtResolutionOnly : Prop :=
  ∀ (p : ModeParams) (rb : Half),
    (verified p rb = true ↔ ∀ i, p.resMask.getLsbD i = true → rb.getLsbD i = true) ∧
    verified p (force12 p rb) = true

/-- On a device that stores every write but for its read-only bits, two CONFIGURE commands in succession read back the
same value: RDATA, and with it STATUS, are the same after both, and the second FVAL is the forced value of the first
readback (R151). The first clause is the law of the stored values, for every parameter set; the second runs both
commands against such a device, which holds `v` before them. -/
def Obligations.SecondConfigureReadsBackTheSame : Prop :=
  (∀ (p : ModeParams) (ro v : Half),
    let s1 := storedValue ro v (force12 p v)
    let s2 := storedValue ro s1 (force12 p s1)
    s2 = s1 ∧ verified p s2 = verified p s1) ∧
  (∀ (s : State) (addr reg reg' : Byte) (ro v : Half) (ds1 ds2 : List Draw),
    s.status.busy = false → addr.toNat < 0x80 →
    let first := storedValue ro v (force12 Config.modeParams v)
    let second := storedValue ro first (force12 Config.modeParams first)
    AnswersConfigure v first ds1 → AnswersConfigure first second ds2 →
      ∃ t1 t2, exec (.configure addr reg) s = .next t1 ∧
        exec (.configure addr reg') (engineRun ds1 t1) = .next t2 ∧
        (engineRun ds1 t1).fsm = .idle ∧ (engineRun ds2 t2).fsm = .idle ∧
        (engineRun ds1 t1).rdata = first ∧ (engineRun ds2 t2).rdata = (engineRun ds1 t1).rdata ∧
        (engineRun ds2 t2).status = (engineRun ds1 t1).status ∧
        (engineRun ds1 t1).status.ok = verified Config.modeParams first ∧
        (engineRun ds1 t1).fval = force12 Config.modeParams v ∧
        (engineRun ds2 t2).fval = force12 Config.modeParams first)

/-- The sample is the raw word's upper 12 bits in two's complement, with bit 15 its sign: the padding does not matter,
the integer is the word divided by 16 rounding down, and TEMPQ is its 32-bit pattern (R170). -/
def Obligations.SampleIsTheUpperTwelveBits : Prop :=
  ∀ w : Half,
    sampleInt w = w.toInt / 16 ∧ -2048 ≤ sampleInt w ∧ sampleInt w ≤ 2047 ∧
    (sampleWord w).toInt = sampleInt w ∧
    (∀ x : Half, w.extractLsb' 4 12 = x.extractLsb' 4 12 →
      sampleWord w = sampleWord x ∧ sampleInt w = sampleInt x) ∧
    sampleInt w = (w.extractLsb' 4 12).toInt ∧ sampleWord w = (w.extractLsb' 4 12).signExtend 32 ∧
    (sampleInt w < 0 ↔ w.getLsbD 15 = true)

/-- The source's two-stage procedure, an arithmetic shift and a second sign extension where bit 11 is set, gives the
same value (R171). -/
def Obligations.TwoStageDecodeAgrees : Prop :=
  ∀ w : Half,
    sampleWord w =
      (if (w.sshiftRight 4).getLsbD 11 then (w.sshiftRight 4) ||| 0xF000#16 else w.sshiftRight 4).signExtend 32

/-- TEMPF is the exact Celsius value of every raw word: no rounding, no clamping (R172, R174, R175; the binary32 layout
is general knowledge in the spec, G2, log 18). -/
def Obligations.TempfIsTheExactCelsius : Prop :=
  ∀ w : Half, f32Value (sampleFloat w) = ((w.extractLsb' 4 12).toInt : ℚ) / 16

/-- The Celsius values are exactly k/16 for k in -2048..2047 (R173). -/
def Obligations.CelsiusTakesExactlyTheSixteenths : Prop :=
  ∀ q : ℚ, (∃ w : Half, celsius w = q) ↔ ∃ k : Int, -2048 ≤ k ∧ k ≤ 2047 ∧ q = (k : ℚ) / 16

/-! ### The host window -/

/-- A read of an aligned offset returns the register there and changes nothing else: CMD, WDATA, STATUS, RDATA, TEMPQ,
TEMPF, FVAL, and 0 at 0x1C to 0x3C (R23, R52). -/
def Obligations.ReadsReturnTheRegisters : Prop :=
  ∀ (s : State) (rest : List Event) (off : Nat), off < 0x40 → off % 4 = 0 →
    s.script = .access (.read off 4) :: rest →
      step s = .next { s with script := rest,
                              reads := s.reads ++
                                [if off = 0x00 then s.cmd
                                 else if off = 0x04 then s.wdata.setWidth 32
                                 else if off = 0x08 then statusWord s.status
                                 else if off = 0x0C then s.rdata.setWidth 32
                                 else if off = 0x10 then s.tempq
                                 else if off = 0x14 then s.tempf
                                 else if off = 0x18 then s.fval.setWidth 32
                                 else 0#32] }

/-- Writes to STATUS, RDATA, TEMPQ, TEMPF, FVAL and the reserved offsets are ignored, and the reserved offsets read as
0 (R31). -/
def Obligations.OtherOffsetsIgnoreWrites : Prop :=
  ∀ (s : State) (rest : List Event) (off : Nat) (v : Word), off < 0x40 → off % 4 = 0 → 0x08 ≤ off →
    (s.script = .access (.write off 4 v) :: rest → step s = .next { s with script := rest }) ∧
    (0x1C ≤ off → windowRead off s = 0#32)

/-- A write to WDATA stores bits [15:0] at any time, BUSY or not, and nothing else (R25). -/
def Obligations.WdataTakesTheLowHalf : Prop :=
  ∀ (s : State) (rest : List Event) (v : Word), s.script = .access (.write 0x04 4 v) :: rest →
    step s = .next { s with script := rest, wdata := v.extractLsb' 0 16 }

/-- An access that is not 32 bits wide, not aligned, or outside the window is refused (R51, which names the widths 1, 2 and
8; that every width but 4 is refused is the model's reading of R50, log 9). -/
def Obligations.UndefinedAccessesAreRefused : Prop :=
  ∀ (s : State) (rest : List Event) (off width : Nat) (v : Word),
    width ≠ 4 ∨ off % 4 ≠ 0 ∨ 0x40 ≤ off →
      (s.script = .access (.read off width) :: rest →
        step s = .refused (.undefinedAccess off width)) ∧
      (s.script = .access (.write off width v) :: rest →
        step s = .refused (.undefinedAccess off width))

/-- Nothing faults, and a step is refused only for an undefined access or an undefined label of the host program. -/
def Obligations.OnlyUndefinedHostActionsAreRefused : Prop :=
  ∀ s : State, (∃ t, step s = .next t) ∨
    (∃ off width, step s = .refused (.undefinedAccess off width) ∧ accessDefined off width = false) ∨
    (∃ l, step s = .refused (.undefinedLabel l) ∧ Stmt.label l ∉ s.host.prog)

/-- The bits of STATUS as the host reads it, with the error codes (R26, R200). -/
def Obligations.StatusWordLayout : Prop :=
  ∀ st : Status,
    (statusWord st).getLsbD 0 = st.busy ∧ (statusWord st).getLsbD 1 = st.done ∧
    (statusWord st).getLsbD 2 = st.ok ∧ (statusWord st).extractLsb' 3 5 = 0#5 ∧
    (statusWord st).extractLsb' 8 4 = errCode st.err ∧ (statusWord st).extractLsb' 12 2 = st.phase ∧
    (statusWord st).extractLsb' 14 18 = 0#18 ∧
    errCode .noErr = 0#4 ∧ errCode .illegal = 1#4 ∧ errCode .badAddr = 2#4 ∧ errCode .nack = 3#4 ∧
    errCode .shortRead = 4#4 ∧ errCode .verify = 5#4

/-- `finish(err, phase)` writes the five fields of STATUS and makes the sequencer IDLE, and issues nothing (R203). -/
def Obligations.FinishWritesStatusOnly : Prop :=
  ∀ (err : ErrCode) (phase : BitVec 2) (s : State),
    finish err phase s =
      { s with
        status := { busy := false, done := true, ok := decide (err = .noErr), err := err,
                    phase := if (err = .nack ∨ err = .shortRead ∨ err = .verify) ∧
                        s.cmdl.extractLsb' 0 4 = 0x4#4 then phase else 0#2 },
        fsm := .idle }

/-! ### Rules of the whole machine -/

/-- One engine step issues exactly one primitive, but for the settling wait and an idle engine, which issue none
(R33, R100). -/
def Obligations.EngineStepIssuesOnePrimitive : Prop :=
  ∀ (d : Draw) (s : State),
    (s.fsm ≠ .idle → s.fsm ≠ .configure .settle → ∃ p, (engineStep d s).busLog = s.busLog ++ [p]) ∧
    (s.fsm = .idle ∨ s.fsm = .configure .settle → (engineStep d s).busLog = s.busLog)

/-- No step but an engine step reaches the bus: host accesses, acceptance (so FORCE and DECODE), host statements and
reset issue nothing, and a step that issues is one step of a running engine on this very state, with nothing else in it
(R100; the script is the model's, log 2). -/
def Obligations.OnlyTheEngineReachesTheBus : Prop :=
  ∀ s t : State, step s = .next t → t.busLog ≠ s.busLog →
    s.fsm ≠ .idle ∧
      ((∃ d rest, s.script = .engine d :: rest ∧ t = engineStep d { s with script := rest }) ∨
        (s.script = [] ∧ ∃ d, t = engineStep d { s with drawn := s.drawn + 1 }))

/-- An engine step leaves CMD, CMDL, OPD, WDATA and the host's side unchanged (R24, R25, R34). -/
def Obligations.EngineFrame : Prop :=
  ∀ (d : Draw) (s : State),
    (engineStep d s).cmd = s.cmd ∧ (engineStep d s).cmdl = s.cmdl ∧ (engineStep d s).opd = s.opd ∧
    (engineStep d s).wdata = s.wdata ∧ (engineStep d s).reads = s.reads ∧
    (engineStep d s).script = s.script ∧ (engineStep d s).drawn = s.drawn ∧
    (engineStep d s).host = s.host

/-- RDATA changes only in the engine step that ends a register read (RD.6 of READ16, READTEMP, or either read of
CONFIGURE), which issues one `T_READ`; it then holds HI and the byte read, HI upper; or by reset (R27, R104). The step is
that engine step on this very state and nothing else (the script is the model's, log 2). -/
def Obligations.RdataChangesOnlyAfterARead : Prop :=
  ∀ s t : State, step s = .next t → t.rdata ≠ s.rdata →
    s.script.head? = some .reset ∨
    ((s.fsm = .read16 .rd6 ∨ s.fsm = .readTemp .rd6 ∨ s.fsm = .configure (.r1 .rd6) ∨
        s.fsm = .configure (.r2 .rd6)) ∧
      tookEngineStep s t ∧
      ∃ d : Draw, t.rdata = s.hi ++ d.byte ∧ t.busLog = s.busLog ++ [.tRead d.byte] ∧
        ((∃ rest, s.script = .engine d :: rest ∧ t = engineStep d { s with script := rest }) ∨
          (s.script = [] ∧ t = engineStep d { s with drawn := s.drawn + 1 })))

/-- TEMPQ and TEMPF change only together: in the engine step that ends READTEMP's read, to the sample of the word RDATA
then holds; in the step in which the host's write to CMD of a DECODE word is accepted, to the sample of WDATA, which is
then OPD; or by reset (R28, R29). -/
def Obligations.TemperatureChangesOnlyBySample : Prop :=
  ∀ s t : State, step s = .next t → (t.tempq ≠ s.tempq ∨ t.tempf ≠ s.tempf) →
    s.script.head? = some .reset ∨
    (tookEngineStep s t ∧ s.fsm = .readTemp .rd6 ∧
      t.tempq = sampleWord t.rdata ∧ t.tempf = sampleFloat t.rdata) ∨
    (∃ addr reg, writesCmd s (encode (.decode addr reg)) ∧ s.status.busy = false ∧
      t.cmd = encode (.decode addr reg) ∧ t.opd = s.wdata ∧
      t.tempq = sampleWord s.wdata ∧ t.tempf = sampleFloat s.wdata)

/-- FVAL changes only in the engine step that ends CONFIGURE's initial read, to the forced value of the word RDATA then
holds; in the step in which the host's write to CMD of a FORCE word is accepted, to the forced value of WDATA, which is
then OPD; or by reset (R30). -/
def Obligations.FvalChangesOnlyByForcing : Prop :=
  ∀ s t : State, step s = .next t → t.fval ≠ s.fval →
    s.script.head? = some .reset ∨
    (tookEngineStep s t ∧ s.fsm = .configure (.r1 .rd6) ∧ t.fval = force12 Config.modeParams t.rdata) ∨
    (∃ addr reg, writesCmd s (encode (.force addr reg)) ∧ s.status.busy = false ∧
      t.cmd = encode (.force addr reg) ∧ t.opd = s.wdata ∧
      t.fval = force12 Config.modeParams s.wdata)

/-- STATUS changes only in the step of an accepted CMD write, to in progress or, for a command that completes at
acceptance, to completed; in a step of a running engine that ends its command, to completed; or by reset (R37). -/
def Obligations.StatusChangesOnlyAtAcceptanceAndFinish : Prop :=
  ∀ s t : State, step s = .next t → t.status ≠ s.status →
    s.script.head? = some .reset ∨
    (∃ c, writesCmd s c ∧ s.status.busy = false ∧ t.cmd = c ∧ t.cmdl = c ∧ t.opd = s.wdata ∧
      (t.status = statusInProgress ∨ (t.fsm = .idle ∧ ∃ err, t.status = statusFinished err 0#2))) ∨
    (tookEngineStep s t ∧ s.fsm ≠ .idle ∧ t.fsm = .idle ∧ ∃ err phase, t.status = statusFinished err phase)

/-- Commands are serialized: while BUSY = 1 nothing but reset changes CMD, CMDL or OPD (R63, R83). -/
def Obligations.NoCommandStartsWhileBusy : Prop :=
  ∀ s t : State, step s = .next t → s.status.busy = true →
    s.script.head? = some .reset ∨ (t.cmd = s.cmd ∧ t.cmdl = s.cmdl ∧ t.opd = s.opd)

/-- A WDATA write during a command does not affect it: the command runs the same and only WDATA differs (R34, R67). -/
def Obligations.WdataWriteDoesNotDisturbACommand : Prop :=
  ∀ (ds : List Draw) (s : State) (x : Half),
    engineRun ds { s with wdata := x } = { engineRun ds s with wdata := x }

/-- An ignored field has no effect: with any other REG (and any other ADDR for FORCE and DECODE, which make no address
check) the command leaves the same state at every step of its run, but for CMD and CMDL themselves, and CMD reads back
the word as written (R77). -/
def Obligations.IgnoredFieldsHaveNoEffect : Prop :=
  ∀ (s t u : State) (a r a' r' : Byte) (ds : List Draw) (i j : Instr),
    ((i = .probe a r ∧ j = .probe a r') ∨ (i = .configure a r ∧ j = .configure a r') ∨
      (i = .readTemp a r ∧ j = .readTemp a r') ∨ (i = .force a r ∧ j = .force a' r') ∨
      (i = .decode a r ∧ j = .decode a' r')) →
    s.fsm = .idle → s.status.busy = false → exec i s = .next t → exec j s = .next u →
      { engineRun ds u with cmd := 0#32, cmdl := 0#32 } = { engineRun ds t with cmd := 0#32, cmdl := 0#32 } ∧
        windowRead 0x00 (engineRun ds t) = encode i ∧ windowRead 0x00 (engineRun ds u) = encode j ∧
        (i.usesBus = false → (engineRun ds t).status = statusOk)

/-! ### The host program -/

/-- The statements of the host language do what R81 says: a label and a branch not taken go on to the next statement; `wr`
and `rd` are the host accesses, and `rd` sets its variable and no other (and records the value, log 11); a taken branch and `jmp` go to the label's place; branches compare a field of STATUS;
`halt` halts, and a halted host and one past its last statement do nothing; `emit` hands over its values (log 14 for
what R81 leaves open). -/
def Obligations.HostStatementsRun : Prop :=
  (∀ s : State, s.host.halted = true ∨ s.host.prog[s.host.pos]? = none → hostTurn s = .next s) ∧
  (∀ s : State, s.host.halted = false →
    (∀ l, s.host.prog[s.host.pos]? = some (.label l) →
      hostTurn s = .next { s with host := { s.host with pos := s.host.pos + 1 } }) ∧
    (∀ off e t, s.host.prog[s.host.pos]? = some (.wr off e) →
      hostAccess (.write off 4 (evalExpr e s.host)) s = .next t →
        hostTurn s = .next { t with host := { t.host with pos := t.host.pos + 1 } }) ∧
    (∀ off e, s.host.prog[s.host.pos]? = some (.wr off e) → accessDefined off 4 = false →
      hostTurn s = .refused (.undefinedAccess off 4)) ∧
    (∀ x off, s.host.prog[s.host.pos]? = some (.rd x off) → off < 0x40 → off % 4 = 0 →
      ∃ t, hostTurn s = .next t ∧
        t = { s with
              reads := s.reads ++ [windowRead off s],
              host := { s.host with
                        vars := (setHostVar x (windowRead off s) s.host).vars,
                        pos := s.host.pos + 1 } } ∧
        hostVar x t.host = windowRead off s ∧ (∀ y, y ≠ x → hostVar y t.host = hostVar y s.host) ∧
        t.status = s.status ∧ t.fsm = s.fsm ∧ ∀ o, windowRead o t = windowRead o s) ∧
    (∀ x off, s.host.prog[s.host.pos]? = some (.rd x off) → accessDefined off 4 = false →
      hostTurn s = .refused (.undefinedAccess off 4)) ∧
    (∀ x f k l, s.host.prog[s.host.pos]? = some (.bne x f k l) →
      (statusFieldOf f (hostVar x s.host) = k →
        hostTurn s = .next { s with host := { s.host with pos := s.host.pos + 1 } }) ∧
      (statusFieldOf f (hostVar x s.host) ≠ k → JumpsTo l s (hostTurn s))) ∧
    (∀ x f k l, s.host.prog[s.host.pos]? = some (.beq x f k l) →
      (statusFieldOf f (hostVar x s.host) = k → JumpsTo l s (hostTurn s)) ∧
      (statusFieldOf f (hostVar x s.host) ≠ k →
        hostTurn s = .next { s with host := { s.host with pos := s.host.pos + 1 } })) ∧
    (∀ l, s.host.prog[s.host.pos]? = some (.jmp l) → JumpsTo l s (hostTurn s)) ∧
    (s.host.prog[s.host.pos]? = some .halt →
      hostTurn s = .next { s with host := { s.host with halted := true } }) ∧
    (∀ es, s.host.prog[s.host.pos]? = some (.emit es) →
      hostTurn s = .next { s with host := { s.host with
        pos := s.host.pos + 1,
        emitted := s.host.emitted ++ [es.map (fun e => evalExpr e s.host)] } })) ∧
  (∀ w : Word,
    statusFieldOf .busy w = (if w.getLsbD 0 then 1#32 else 0#32) ∧
    statusFieldOf .done w = (if w.getLsbD 1 then 1#32 else 0#32) ∧
    statusFieldOf .ok w = (if w.getLsbD 2 then 1#32 else 0#32) ∧
    (statusFieldOf .err w).toNat = w.toNat / 2 ^ 8 % 16 ∧
    (statusFieldOf .phase w).toNat = w.toNat / 2 ^ 12 % 4) ∧
  (∀ (w : Word) (x : Nat) (h : HostAgent),
    evalExpr (.const w) h = w ∧ evalExpr (.var x) h = hostVar x h)
end

