-- ==== Sys2Proof/Laws/Encoding.lean ====
section
/-! SUPPORT. The fields of an assembled command word (30_encoding.md R70), one lemma per field, and what an opcode
decodes to. -/

namespace Sys2Proof

open Sys2Proof.Machine

@[simp] theorem opField_encodeFields (op : BitVec 4) (a r : Byte) :
    opField (encodeFields op a r) = op := by
  unfold opField encodeFields
  ext i h
  interval_cases i <;> simp

@[simp] theorem rsv0Field_encodeFields (op : BitVec 4) (a r : Byte) :
    rsv0Field (encodeFields op a r) = 0#4 := by
  unfold rsv0Field encodeFields
  ext i h
  interval_cases i <;> simp

@[simp] theorem addrField_encodeFields (op : BitVec 4) (a r : Byte) :
    addrField (encodeFields op a r) = a := by
  unfold addrField encodeFields
  ext i h
  interval_cases i <;> simp

@[simp] theorem regField_encodeFields (op : BitVec 4) (a r : Byte) :
    regField (encodeFields op a r) = r := by
  unfold regField encodeFields
  ext i h
  interval_cases i <;> simp

@[simp] theorem rsv1Field_encodeFields (op : BitVec 4) (a r : Byte) :
    rsv1Field (encodeFields op a r) = 0#8 := by
  unfold rsv1Field encodeFields
  ext i h
  interval_cases i <;> simp

@[simp] theorem busAddr_encodeFields (op : BitVec 4) (a r : Byte) :
    busAddr (encodeFields op a r) = a.extractLsb' 0 7 := by
  unfold busAddr encodeFields
  ext i h
  interval_cases i <;> simp

@[simp] theorem addrBit7_encodeFields (op : BitVec 4) (a r : Byte) :
    addrBit7 (encodeFields op a r) = a.getLsbD 7 := by
  simp [addrBit7, encodeFields]

/-- A word whose reserved fields are 0 is assembled from its three fields. -/
theorem encodeFields_of_fields (c : Word) (h0 : rsv0Field c = 0#4) (h1 : rsv1Field c = 0#8) :
    encodeFields (opField c) (addrField c) (regField c) = c := by
  have k0 : ∀ j, j < 4 → c.getLsbD (4 + j) = false := fun j hj => by
    simpa [rsv0Field, hj] using congrArg (fun x => BitVec.getLsbD x j) h0
  have k1 : ∀ j, j < 8 → c.getLsbD (24 + j) = false := fun j hj => by
    simpa [rsv1Field, hj] using congrArg (fun x => BitVec.getLsbD x j) h1
  unfold encodeFields opField addrField regField
  apply BitVec.eq_of_getLsbD_eq
  intro i hi
  rcases Nat.lt_or_ge i 4 with h | h
  · interval_cases i <;> simp
  rcases Nat.lt_or_ge i 8 with h' | h'
  · obtain ⟨j, rfl⟩ := Nat.exists_eq_add_of_le h
    have hj : j < 4 := by omega
    rw [k0 j hj]
    interval_cases j <;> simp
  rcases Nat.lt_or_ge i 24 with h'' | h''
  · interval_cases i <;> simp
  · obtain ⟨j, rfl⟩ := Nat.exists_eq_add_of_le h''
    have hj : j < 8 := by omega
    rw [k1 j hj]
    interval_cases j <;> simp

theorem encode_eq_fields (i : Instr) : encode i = encodeFields (opcodeOf i) i.addr i.reg := by
  cases i <;> rfl

/-- The opcode of a command's word is its opcode. -/
@[simp] theorem opField_encode (i : Instr) : opField (encode i) = opcodeOf i := by
  rw [encode_eq_fields, opField_encodeFields]

/-- A word assembled from fields decodes by its opcode alone. -/
theorem decodeWord_encodeFields (op : BitVec 4) (a r : Byte) :
    decodeWord (encodeFields op a r) = decodeOp op a r := by
  simp [decodeWord]

/-- An opcode decodes to exactly the command that has it, with the two fields as they are. -/
theorem decodeOp_ok_iff (op : BitVec 4) (a r : Byte) (i : Instr) :
    decodeOp op a r = .ok i ↔ opcodeOf i = op ∧ i.addr = a ∧ i.reg = r := by
  constructor
  · unfold decodeOp
    have hop : op = BitVec.ofNat 4 op.toNat := by simp
    have hlt := op.isLt
    generalize op.toNat = n at hop hlt
    subst hop
    intro h
    interval_cases n <;> simp at h <;> subst h <;> exact ⟨rfl, rfl, rfl⟩
  · rintro ⟨rfl, rfl, rfl⟩
    cases i <;> rfl

/-- An opcode is rejected exactly where it is 0 or at least 8 (R71). -/
theorem decodeOp_error_iff (op : BitVec 4) (a r : Byte) :
    (∃ e, decodeOp op a r = .error e) ↔ op.toNat = 0 ∨ 8 ≤ op.toNat := by
  unfold decodeOp
  have hlt := op.isLt
  generalize op.toNat = n at hlt
  interval_cases n <;> simp

end Sys2Proof
end

