-- ==== Sys2Proof/Laws/State.lean ====
section
/-! SUPPORT. One lemma per field of State for each shared operation: what the operation leaves in the field. All are
true by definition; later proofs cite them and unfold no record update. -/

namespace Sys2Proof.Machine

@[simp] theorem goto_cmd (l : Fsm) (s : State) : (goto l s).cmd = s.cmd := rfl
@[simp] theorem goto_wdata (l : Fsm) (s : State) : (goto l s).wdata = s.wdata := rfl
@[simp] theorem goto_status (l : Fsm) (s : State) : (goto l s).status = s.status := rfl
@[simp] theorem goto_rdata (l : Fsm) (s : State) : (goto l s).rdata = s.rdata := rfl
@[simp] theorem goto_tempq (l : Fsm) (s : State) : (goto l s).tempq = s.tempq := rfl
@[simp] theorem goto_tempf (l : Fsm) (s : State) : (goto l s).tempf = s.tempf := rfl
@[simp] theorem goto_fval (l : Fsm) (s : State) : (goto l s).fval = s.fval := rfl
@[simp] theorem goto_fsm (l : Fsm) (s : State) : (goto l s).fsm = l := rfl
@[simp] theorem goto_cmdl (l : Fsm) (s : State) : (goto l s).cmdl = s.cmdl := rfl
@[simp] theorem goto_opd (l : Fsm) (s : State) : (goto l s).opd = s.opd := rfl
@[simp] theorem goto_hi (l : Fsm) (s : State) : (goto l s).hi = s.hi := rfl
@[simp] theorem goto_v (l : Fsm) (s : State) : (goto l s).v = s.v := rfl
@[simp] theorem goto_scnt (l : Fsm) (s : State) : (goto l s).scnt = s.scnt := rfl
@[simp] theorem goto_busHeld (l : Fsm) (s : State) : (goto l s).busHeld = s.busHeld := rfl
@[simp] theorem goto_busLog (l : Fsm) (s : State) : (goto l s).busLog = s.busLog := rfl
@[simp] theorem goto_reads (l : Fsm) (s : State) : (goto l s).reads = s.reads := rfl
@[simp] theorem goto_script (l : Fsm) (s : State) : (goto l s).script = s.script := rfl
@[simp] theorem goto_drawn (l : Fsm) (s : State) : (goto l s).drawn = s.drawn := rfl
@[simp] theorem goto_host (l : Fsm) (s : State) : (goto l s).host = s.host := rfl

@[simp] theorem finish_cmd (e : ErrCode) (p : BitVec 2) (s : State) :
    (finish e p s).cmd = s.cmd := rfl
@[simp] theorem finish_wdata (e : ErrCode) (p : BitVec 2) (s : State) :
    (finish e p s).wdata = s.wdata := rfl
@[simp] theorem finish_status (e : ErrCode) (p : BitVec 2) (s : State) :
    (finish e p s).status = statusFinished e (finishPhase e (isConfigure s) p) := rfl
@[simp] theorem finish_rdata (e : ErrCode) (p : BitVec 2) (s : State) :
    (finish e p s).rdata = s.rdata := rfl
@[simp] theorem finish_tempq (e : ErrCode) (p : BitVec 2) (s : State) :
    (finish e p s).tempq = s.tempq := rfl
@[simp] theorem finish_tempf (e : ErrCode) (p : BitVec 2) (s : State) :
    (finish e p s).tempf = s.tempf := rfl
@[simp] theorem finish_fval (e : ErrCode) (p : BitVec 2) (s : State) :
    (finish e p s).fval = s.fval := rfl
@[simp] theorem finish_fsm (e : ErrCode) (p : BitVec 2) (s : State) :
    (finish e p s).fsm = .idle := rfl
@[simp] theorem finish_cmdl (e : ErrCode) (p : BitVec 2) (s : State) :
    (finish e p s).cmdl = s.cmdl := rfl
@[simp] theorem finish_opd (e : ErrCode) (p : BitVec 2) (s : State) :
    (finish e p s).opd = s.opd := rfl
@[simp] theorem finish_hi (e : ErrCode) (p : BitVec 2) (s : State) : (finish e p s).hi = s.hi := rfl
@[simp] theorem finish_v (e : ErrCode) (p : BitVec 2) (s : State) : (finish e p s).v = s.v := rfl
@[simp] theorem finish_scnt (e : ErrCode) (p : BitVec 2) (s : State) :
    (finish e p s).scnt = s.scnt := rfl
@[simp] theorem finish_busHeld (e : ErrCode) (p : BitVec 2) (s : State) :
    (finish e p s).busHeld = s.busHeld := rfl
@[simp] theorem finish_busLog (e : ErrCode) (p : BitVec 2) (s : State) :
    (finish e p s).busLog = s.busLog := rfl
@[simp] theorem finish_reads (e : ErrCode) (p : BitVec 2) (s : State) :
    (finish e p s).reads = s.reads := rfl
@[simp] theorem finish_script (e : ErrCode) (p : BitVec 2) (s : State) :
    (finish e p s).script = s.script := rfl
@[simp] theorem finish_drawn (e : ErrCode) (p : BitVec 2) (s : State) :
    (finish e p s).drawn = s.drawn := rfl
@[simp] theorem finish_host (e : ErrCode) (p : BitVec 2) (s : State) :
    (finish e p s).host = s.host := rfl

@[simp] theorem latchCommand_cmd (c : Word) (s : State) : (latchCommand c s).cmd = c := rfl
@[simp] theorem latchCommand_wdata (c : Word) (s : State) :
    (latchCommand c s).wdata = s.wdata := rfl
@[simp] theorem latchCommand_status (c : Word) (s : State) :
    (latchCommand c s).status = statusInProgress := rfl
@[simp] theorem latchCommand_rdata (c : Word) (s : State) :
    (latchCommand c s).rdata = s.rdata := rfl
@[simp] theorem latchCommand_tempq (c : Word) (s : State) :
    (latchCommand c s).tempq = s.tempq := rfl
@[simp] theorem latchCommand_tempf (c : Word) (s : State) :
    (latchCommand c s).tempf = s.tempf := rfl
@[simp] theorem latchCommand_fval (c : Word) (s : State) : (latchCommand c s).fval = s.fval := rfl
@[simp] theorem latchCommand_fsm (c : Word) (s : State) : (latchCommand c s).fsm = s.fsm := rfl
@[simp] theorem latchCommand_cmdl (c : Word) (s : State) : (latchCommand c s).cmdl = c := rfl
@[simp] theorem latchCommand_opd (c : Word) (s : State) : (latchCommand c s).opd = s.wdata := rfl
@[simp] theorem latchCommand_hi (c : Word) (s : State) : (latchCommand c s).hi = s.hi := rfl
@[simp] theorem latchCommand_v (c : Word) (s : State) : (latchCommand c s).v = s.v := rfl
@[simp] theorem latchCommand_scnt (c : Word) (s : State) : (latchCommand c s).scnt = s.scnt := rfl
@[simp] theorem latchCommand_busHeld (c : Word) (s : State) :
    (latchCommand c s).busHeld = s.busHeld := rfl
@[simp] theorem latchCommand_busLog (c : Word) (s : State) :
    (latchCommand c s).busLog = s.busLog := rfl
@[simp] theorem latchCommand_reads (c : Word) (s : State) :
    (latchCommand c s).reads = s.reads := rfl
@[simp] theorem latchCommand_script (c : Word) (s : State) :
    (latchCommand c s).script = s.script := rfl
@[simp] theorem latchCommand_drawn (c : Word) (s : State) :
    (latchCommand c s).drawn = s.drawn := rfl
@[simp] theorem latchCommand_host (c : Word) (s : State) : (latchCommand c s).host = s.host := rfl

@[simp] theorem issue_cmd (p : Prim) (s : State) : (issue p s).cmd = s.cmd := rfl
@[simp] theorem issue_wdata (p : Prim) (s : State) : (issue p s).wdata = s.wdata := rfl
@[simp] theorem issue_status (p : Prim) (s : State) : (issue p s).status = s.status := rfl
@[simp] theorem issue_rdata (p : Prim) (s : State) : (issue p s).rdata = s.rdata := rfl
@[simp] theorem issue_tempq (p : Prim) (s : State) : (issue p s).tempq = s.tempq := rfl
@[simp] theorem issue_tempf (p : Prim) (s : State) : (issue p s).tempf = s.tempf := rfl
@[simp] theorem issue_fval (p : Prim) (s : State) : (issue p s).fval = s.fval := rfl
@[simp] theorem issue_fsm (p : Prim) (s : State) : (issue p s).fsm = s.fsm := rfl
@[simp] theorem issue_cmdl (p : Prim) (s : State) : (issue p s).cmdl = s.cmdl := rfl
@[simp] theorem issue_opd (p : Prim) (s : State) : (issue p s).opd = s.opd := rfl
@[simp] theorem issue_hi (p : Prim) (s : State) : (issue p s).hi = s.hi := rfl
@[simp] theorem issue_v (p : Prim) (s : State) : (issue p s).v = s.v := rfl
@[simp] theorem issue_scnt (p : Prim) (s : State) : (issue p s).scnt = s.scnt := rfl
@[simp] theorem issue_busHeld (p : Prim) (s : State) : (issue p s).busHeld = s.busHeld := rfl
@[simp] theorem issue_busLog (p : Prim) (s : State) : (issue p s).busLog = s.busLog ++ [p] := rfl
@[simp] theorem issue_reads (p : Prim) (s : State) : (issue p s).reads = s.reads := rfl
@[simp] theorem issue_script (p : Prim) (s : State) : (issue p s).script = s.script := rfl
@[simp] theorem issue_drawn (p : Prim) (s : State) : (issue p s).drawn = s.drawn := rfl
@[simp] theorem issue_host (p : Prim) (s : State) : (issue p s).host = s.host := rfl

@[simp] theorem tBegin_cmd (s : State) : (tBegin s).cmd = s.cmd := rfl
@[simp] theorem tBegin_wdata (s : State) : (tBegin s).wdata = s.wdata := rfl
@[simp] theorem tBegin_status (s : State) : (tBegin s).status = s.status := rfl
@[simp] theorem tBegin_rdata (s : State) : (tBegin s).rdata = s.rdata := rfl
@[simp] theorem tBegin_tempq (s : State) : (tBegin s).tempq = s.tempq := rfl
@[simp] theorem tBegin_tempf (s : State) : (tBegin s).tempf = s.tempf := rfl
@[simp] theorem tBegin_fval (s : State) : (tBegin s).fval = s.fval := rfl
@[simp] theorem tBegin_fsm (s : State) : (tBegin s).fsm = s.fsm := rfl
@[simp] theorem tBegin_cmdl (s : State) : (tBegin s).cmdl = s.cmdl := rfl
@[simp] theorem tBegin_opd (s : State) : (tBegin s).opd = s.opd := rfl
@[simp] theorem tBegin_hi (s : State) : (tBegin s).hi = s.hi := rfl
@[simp] theorem tBegin_v (s : State) : (tBegin s).v = s.v := rfl
@[simp] theorem tBegin_scnt (s : State) : (tBegin s).scnt = s.scnt := rfl
@[simp] theorem tBegin_busHeld (s : State) : (tBegin s).busHeld = s.busHeld := rfl
@[simp] theorem tBegin_busLog (s : State) :
    (tBegin s).busLog = s.busLog ++ [.tBegin (busAddr s.cmdl)] := rfl
@[simp] theorem tBegin_reads (s : State) : (tBegin s).reads = s.reads := rfl
@[simp] theorem tBegin_script (s : State) : (tBegin s).script = s.script := rfl
@[simp] theorem tBegin_drawn (s : State) : (tBegin s).drawn = s.drawn := rfl
@[simp] theorem tBegin_host (s : State) : (tBegin s).host = s.host := rfl

@[simp] theorem tWrite_cmd (b : Byte) (s : State) : (tWrite b s).cmd = s.cmd := rfl
@[simp] theorem tWrite_wdata (b : Byte) (s : State) : (tWrite b s).wdata = s.wdata := rfl
@[simp] theorem tWrite_status (b : Byte) (s : State) : (tWrite b s).status = s.status := rfl
@[simp] theorem tWrite_rdata (b : Byte) (s : State) : (tWrite b s).rdata = s.rdata := rfl
@[simp] theorem tWrite_tempq (b : Byte) (s : State) : (tWrite b s).tempq = s.tempq := rfl
@[simp] theorem tWrite_tempf (b : Byte) (s : State) : (tWrite b s).tempf = s.tempf := rfl
@[simp] theorem tWrite_fval (b : Byte) (s : State) : (tWrite b s).fval = s.fval := rfl
@[simp] theorem tWrite_fsm (b : Byte) (s : State) : (tWrite b s).fsm = s.fsm := rfl
@[simp] theorem tWrite_cmdl (b : Byte) (s : State) : (tWrite b s).cmdl = s.cmdl := rfl
@[simp] theorem tWrite_opd (b : Byte) (s : State) : (tWrite b s).opd = s.opd := rfl
@[simp] theorem tWrite_hi (b : Byte) (s : State) : (tWrite b s).hi = s.hi := rfl
@[simp] theorem tWrite_v (b : Byte) (s : State) : (tWrite b s).v = s.v := rfl
@[simp] theorem tWrite_scnt (b : Byte) (s : State) : (tWrite b s).scnt = s.scnt := rfl
@[simp] theorem tWrite_busHeld (b : Byte) (s : State) : (tWrite b s).busHeld = s.busHeld := rfl
@[simp] theorem tWrite_busLog (b : Byte) (s : State) :
    (tWrite b s).busLog = s.busLog ++ [.tWrite b] := rfl
@[simp] theorem tWrite_reads (b : Byte) (s : State) : (tWrite b s).reads = s.reads := rfl
@[simp] theorem tWrite_script (b : Byte) (s : State) : (tWrite b s).script = s.script := rfl
@[simp] theorem tWrite_drawn (b : Byte) (s : State) : (tWrite b s).drawn = s.drawn := rfl
@[simp] theorem tWrite_host (b : Byte) (s : State) : (tWrite b s).host = s.host := rfl

@[simp] theorem tEnd_cmd (r a : Bool) (s : State) : (tEnd r a s).cmd = s.cmd := rfl
@[simp] theorem tEnd_wdata (r a : Bool) (s : State) : (tEnd r a s).wdata = s.wdata := rfl
@[simp] theorem tEnd_status (r a : Bool) (s : State) : (tEnd r a s).status = s.status := rfl
@[simp] theorem tEnd_rdata (r a : Bool) (s : State) : (tEnd r a s).rdata = s.rdata := rfl
@[simp] theorem tEnd_tempq (r a : Bool) (s : State) : (tEnd r a s).tempq = s.tempq := rfl
@[simp] theorem tEnd_tempf (r a : Bool) (s : State) : (tEnd r a s).tempf = s.tempf := rfl
@[simp] theorem tEnd_fval (r a : Bool) (s : State) : (tEnd r a s).fval = s.fval := rfl
@[simp] theorem tEnd_fsm (r a : Bool) (s : State) : (tEnd r a s).fsm = s.fsm := rfl
@[simp] theorem tEnd_cmdl (r a : Bool) (s : State) : (tEnd r a s).cmdl = s.cmdl := rfl
@[simp] theorem tEnd_opd (r a : Bool) (s : State) : (tEnd r a s).opd = s.opd := rfl
@[simp] theorem tEnd_hi (r a : Bool) (s : State) : (tEnd r a s).hi = s.hi := rfl
@[simp] theorem tEnd_v (r a : Bool) (s : State) : (tEnd r a s).v = s.v := rfl
@[simp] theorem tEnd_scnt (r a : Bool) (s : State) : (tEnd r a s).scnt = s.scnt := rfl
@[simp] theorem tEnd_busHeld (r a : Bool) (s : State) :
    (tEnd r a s).busHeld = ((!r && a) || s.busHeld) := rfl
@[simp] theorem tEnd_busLog (r a : Bool) (s : State) :
    (tEnd r a s).busLog = s.busLog ++ [.tEnd r a] := rfl
@[simp] theorem tEnd_reads (r a : Bool) (s : State) : (tEnd r a s).reads = s.reads := rfl
@[simp] theorem tEnd_script (r a : Bool) (s : State) : (tEnd r a s).script = s.script := rfl
@[simp] theorem tEnd_drawn (r a : Bool) (s : State) : (tEnd r a s).drawn = s.drawn := rfl
@[simp] theorem tEnd_host (r a : Bool) (s : State) : (tEnd r a s).host = s.host := rfl

@[simp] theorem tRequest_cmd (n : Fin 3) (s : State) : (tRequest n s).cmd = s.cmd := rfl
@[simp] theorem tRequest_wdata (n : Fin 3) (s : State) : (tRequest n s).wdata = s.wdata := rfl
@[simp] theorem tRequest_status (n : Fin 3) (s : State) : (tRequest n s).status = s.status := rfl
@[simp] theorem tRequest_rdata (n : Fin 3) (s : State) : (tRequest n s).rdata = s.rdata := rfl
@[simp] theorem tRequest_tempq (n : Fin 3) (s : State) : (tRequest n s).tempq = s.tempq := rfl
@[simp] theorem tRequest_tempf (n : Fin 3) (s : State) : (tRequest n s).tempf = s.tempf := rfl
@[simp] theorem tRequest_fval (n : Fin 3) (s : State) : (tRequest n s).fval = s.fval := rfl
@[simp] theorem tRequest_fsm (n : Fin 3) (s : State) : (tRequest n s).fsm = s.fsm := rfl
@[simp] theorem tRequest_cmdl (n : Fin 3) (s : State) : (tRequest n s).cmdl = s.cmdl := rfl
@[simp] theorem tRequest_opd (n : Fin 3) (s : State) : (tRequest n s).opd = s.opd := rfl
@[simp] theorem tRequest_hi (n : Fin 3) (s : State) : (tRequest n s).hi = s.hi := rfl
@[simp] theorem tRequest_v (n : Fin 3) (s : State) : (tRequest n s).v = s.v := rfl
@[simp] theorem tRequest_scnt (n : Fin 3) (s : State) : (tRequest n s).scnt = s.scnt := rfl
@[simp] theorem tRequest_busHeld (n : Fin 3) (s : State) : (tRequest n s).busHeld = false := rfl
@[simp] theorem tRequest_busLog (n : Fin 3) (s : State) :
    (tRequest n s).busLog = s.busLog ++ [.tRequest (busAddr s.cmdl) 2 n] := rfl
@[simp] theorem tRequest_reads (n : Fin 3) (s : State) : (tRequest n s).reads = s.reads := rfl
@[simp] theorem tRequest_script (n : Fin 3) (s : State) : (tRequest n s).script = s.script := rfl
@[simp] theorem tRequest_drawn (n : Fin 3) (s : State) : (tRequest n s).drawn = s.drawn := rfl
@[simp] theorem tRequest_host (n : Fin 3) (s : State) : (tRequest n s).host = s.host := rfl

@[simp] theorem tRead_cmd (b : Byte) (s : State) : (tRead b s).cmd = s.cmd := rfl
@[simp] theorem tRead_wdata (b : Byte) (s : State) : (tRead b s).wdata = s.wdata := rfl
@[simp] theorem tRead_status (b : Byte) (s : State) : (tRead b s).status = s.status := rfl
@[simp] theorem tRead_rdata (b : Byte) (s : State) : (tRead b s).rdata = s.rdata := rfl
@[simp] theorem tRead_tempq (b : Byte) (s : State) : (tRead b s).tempq = s.tempq := rfl
@[simp] theorem tRead_tempf (b : Byte) (s : State) : (tRead b s).tempf = s.tempf := rfl
@[simp] theorem tRead_fval (b : Byte) (s : State) : (tRead b s).fval = s.fval := rfl
@[simp] theorem tRead_fsm (b : Byte) (s : State) : (tRead b s).fsm = s.fsm := rfl
@[simp] theorem tRead_cmdl (b : Byte) (s : State) : (tRead b s).cmdl = s.cmdl := rfl
@[simp] theorem tRead_opd (b : Byte) (s : State) : (tRead b s).opd = s.opd := rfl
@[simp] theorem tRead_hi (b : Byte) (s : State) : (tRead b s).hi = s.hi := rfl
@[simp] theorem tRead_v (b : Byte) (s : State) : (tRead b s).v = s.v := rfl
@[simp] theorem tRead_scnt (b : Byte) (s : State) : (tRead b s).scnt = s.scnt := rfl
@[simp] theorem tRead_busHeld (b : Byte) (s : State) : (tRead b s).busHeld = s.busHeld := rfl
@[simp] theorem tRead_busLog (b : Byte) (s : State) :
    (tRead b s).busLog = s.busLog ++ [.tRead b] := rfl
@[simp] theorem tRead_reads (b : Byte) (s : State) : (tRead b s).reads = s.reads := rfl
@[simp] theorem tRead_script (b : Byte) (s : State) : (tRead b s).script = s.script := rfl
@[simp] theorem tRead_drawn (b : Byte) (s : State) : (tRead b s).drawn = s.drawn := rfl
@[simp] theorem tRead_host (b : Byte) (s : State) : (tRead b s).host = s.host := rfl

@[simp] theorem setSample_cmd (w : Half) (s : State) : (setSample w s).cmd = s.cmd := rfl
@[simp] theorem setSample_wdata (w : Half) (s : State) : (setSample w s).wdata = s.wdata := rfl
@[simp] theorem setSample_status (w : Half) (s : State) : (setSample w s).status = s.status := rfl
@[simp] theorem setSample_rdata (w : Half) (s : State) : (setSample w s).rdata = s.rdata := rfl
@[simp] theorem setSample_tempq (w : Half) (s : State) : (setSample w s).tempq = sampleWord w := rfl
@[simp] theorem setSample_tempf (w : Half) (s : State) :
    (setSample w s).tempf = sampleFloat w := rfl
@[simp] theorem setSample_fval (w : Half) (s : State) : (setSample w s).fval = s.fval := rfl
@[simp] theorem setSample_fsm (w : Half) (s : State) : (setSample w s).fsm = s.fsm := rfl
@[simp] theorem setSample_cmdl (w : Half) (s : State) : (setSample w s).cmdl = s.cmdl := rfl
@[simp] theorem setSample_opd (w : Half) (s : State) : (setSample w s).opd = s.opd := rfl
@[simp] theorem setSample_hi (w : Half) (s : State) : (setSample w s).hi = s.hi := rfl
@[simp] theorem setSample_v (w : Half) (s : State) : (setSample w s).v = s.v := rfl
@[simp] theorem setSample_scnt (w : Half) (s : State) : (setSample w s).scnt = s.scnt := rfl
@[simp] theorem setSample_busHeld (w : Half) (s : State) :
    (setSample w s).busHeld = s.busHeld := rfl
@[simp] theorem setSample_busLog (w : Half) (s : State) : (setSample w s).busLog = s.busLog := rfl
@[simp] theorem setSample_reads (w : Half) (s : State) : (setSample w s).reads = s.reads := rfl
@[simp] theorem setSample_script (w : Half) (s : State) : (setSample w s).script = s.script := rfl
@[simp] theorem setSample_drawn (w : Half) (s : State) : (setSample w s).drawn = s.drawn := rfl
@[simp] theorem setSample_host (w : Half) (s : State) : (setSample w s).host = s.host := rfl

@[simp] theorem writeWdata_cmd (w : Word) (s : State) : (writeWdata w s).cmd = s.cmd := rfl
@[simp] theorem writeWdata_wdata (w : Word) (s : State) :
    (writeWdata w s).wdata = w.extractLsb' 0 16 := rfl
@[simp] theorem writeWdata_status (w : Word) (s : State) : (writeWdata w s).status = s.status := rfl
@[simp] theorem writeWdata_rdata (w : Word) (s : State) : (writeWdata w s).rdata = s.rdata := rfl
@[simp] theorem writeWdata_tempq (w : Word) (s : State) : (writeWdata w s).tempq = s.tempq := rfl
@[simp] theorem writeWdata_tempf (w : Word) (s : State) : (writeWdata w s).tempf = s.tempf := rfl
@[simp] theorem writeWdata_fval (w : Word) (s : State) : (writeWdata w s).fval = s.fval := rfl
@[simp] theorem writeWdata_fsm (w : Word) (s : State) : (writeWdata w s).fsm = s.fsm := rfl
@[simp] theorem writeWdata_cmdl (w : Word) (s : State) : (writeWdata w s).cmdl = s.cmdl := rfl
@[simp] theorem writeWdata_opd (w : Word) (s : State) : (writeWdata w s).opd = s.opd := rfl
@[simp] theorem writeWdata_hi (w : Word) (s : State) : (writeWdata w s).hi = s.hi := rfl
@[simp] theorem writeWdata_v (w : Word) (s : State) : (writeWdata w s).v = s.v := rfl
@[simp] theorem writeWdata_scnt (w : Word) (s : State) : (writeWdata w s).scnt = s.scnt := rfl
@[simp] theorem writeWdata_busHeld (w : Word) (s : State) :
    (writeWdata w s).busHeld = s.busHeld := rfl
@[simp] theorem writeWdata_busLog (w : Word) (s : State) : (writeWdata w s).busLog = s.busLog := rfl
@[simp] theorem writeWdata_reads (w : Word) (s : State) : (writeWdata w s).reads = s.reads := rfl
@[simp] theorem writeWdata_script (w : Word) (s : State) : (writeWdata w s).script = s.script := rfl
@[simp] theorem writeWdata_drawn (w : Word) (s : State) : (writeWdata w s).drawn = s.drawn := rfl
@[simp] theorem writeWdata_host (w : Word) (s : State) : (writeWdata w s).host = s.host := rfl

@[simp] theorem hostAdvance_cmd (s : State) : (hostAdvance s).cmd = s.cmd := rfl
@[simp] theorem hostAdvance_wdata (s : State) : (hostAdvance s).wdata = s.wdata := rfl
@[simp] theorem hostAdvance_status (s : State) : (hostAdvance s).status = s.status := rfl
@[simp] theorem hostAdvance_rdata (s : State) : (hostAdvance s).rdata = s.rdata := rfl
@[simp] theorem hostAdvance_tempq (s : State) : (hostAdvance s).tempq = s.tempq := rfl
@[simp] theorem hostAdvance_tempf (s : State) : (hostAdvance s).tempf = s.tempf := rfl
@[simp] theorem hostAdvance_fval (s : State) : (hostAdvance s).fval = s.fval := rfl
@[simp] theorem hostAdvance_fsm (s : State) : (hostAdvance s).fsm = s.fsm := rfl
@[simp] theorem hostAdvance_cmdl (s : State) : (hostAdvance s).cmdl = s.cmdl := rfl
@[simp] theorem hostAdvance_opd (s : State) : (hostAdvance s).opd = s.opd := rfl
@[simp] theorem hostAdvance_hi (s : State) : (hostAdvance s).hi = s.hi := rfl
@[simp] theorem hostAdvance_v (s : State) : (hostAdvance s).v = s.v := rfl
@[simp] theorem hostAdvance_scnt (s : State) : (hostAdvance s).scnt = s.scnt := rfl
@[simp] theorem hostAdvance_busHeld (s : State) : (hostAdvance s).busHeld = s.busHeld := rfl
@[simp] theorem hostAdvance_busLog (s : State) : (hostAdvance s).busLog = s.busLog := rfl
@[simp] theorem hostAdvance_reads (s : State) : (hostAdvance s).reads = s.reads := rfl
@[simp] theorem hostAdvance_script (s : State) : (hostAdvance s).script = s.script := rfl
@[simp] theorem hostAdvance_drawn (s : State) : (hostAdvance s).drawn = s.drawn := rfl
@[simp] theorem hostAdvance_host (s : State) :
    (hostAdvance s).host = { s.host with pos := s.host.pos + 1 } := rfl

@[simp] theorem resetRte_cmd (s : State) : (resetRte s).cmd = 0#32 := rfl
@[simp] theorem resetRte_wdata (s : State) : (resetRte s).wdata = 0#16 := rfl
@[simp] theorem resetRte_status (s : State) : (resetRte s).status = Status.zero := rfl
@[simp] theorem resetRte_rdata (s : State) : (resetRte s).rdata = 0#16 := rfl
@[simp] theorem resetRte_tempq (s : State) : (resetRte s).tempq = 0#32 := rfl
@[simp] theorem resetRte_tempf (s : State) : (resetRte s).tempf = 0#32 := rfl
@[simp] theorem resetRte_fval (s : State) : (resetRte s).fval = 0#16 := rfl
@[simp] theorem resetRte_fsm (s : State) : (resetRte s).fsm = .idle := rfl
@[simp] theorem resetRte_cmdl (s : State) : (resetRte s).cmdl = 0#32 := rfl
@[simp] theorem resetRte_opd (s : State) : (resetRte s).opd = 0#16 := rfl
@[simp] theorem resetRte_hi (s : State) : (resetRte s).hi = 0#8 := rfl
@[simp] theorem resetRte_v (s : State) : (resetRte s).v = 0#16 := rfl
@[simp] theorem resetRte_scnt (s : State) : (resetRte s).scnt = 0 := rfl
@[simp] theorem resetRte_busHeld (s : State) : (resetRte s).busHeld = s.busHeld := rfl
@[simp] theorem resetRte_busLog (s : State) : (resetRte s).busLog = s.busLog := rfl
@[simp] theorem resetRte_reads (s : State) : (resetRte s).reads = s.reads := rfl
@[simp] theorem resetRte_script (s : State) : (resetRte s).script = s.script := rfl
@[simp] theorem resetRte_drawn (s : State) : (resetRte s).drawn = s.drawn := rfl
@[simp] theorem resetRte_host (s : State) : (resetRte s).host = s.host := rfl

@[simp] theorem settleClocks_cmd (n : Nat) (s : State) : (settleClocks n s).cmd = s.cmd := rfl
@[simp] theorem settleClocks_wdata (n : Nat) (s : State) : (settleClocks n s).wdata = s.wdata := rfl
@[simp] theorem settleClocks_status (n : Nat) (s : State) : (settleClocks n s).status = s.status := rfl
@[simp] theorem settleClocks_rdata (n : Nat) (s : State) : (settleClocks n s).rdata = s.rdata := rfl
@[simp] theorem settleClocks_tempq (n : Nat) (s : State) : (settleClocks n s).tempq = s.tempq := rfl
@[simp] theorem settleClocks_tempf (n : Nat) (s : State) : (settleClocks n s).tempf = s.tempf := rfl
@[simp] theorem settleClocks_fval (n : Nat) (s : State) : (settleClocks n s).fval = s.fval := rfl
@[simp] theorem settleClocks_fsm (n : Nat) (s : State) : (settleClocks n s).fsm = s.fsm := rfl
@[simp] theorem settleClocks_cmdl (n : Nat) (s : State) : (settleClocks n s).cmdl = s.cmdl := rfl
@[simp] theorem settleClocks_opd (n : Nat) (s : State) : (settleClocks n s).opd = s.opd := rfl
@[simp] theorem settleClocks_hi (n : Nat) (s : State) : (settleClocks n s).hi = s.hi := rfl
@[simp] theorem settleClocks_v (n : Nat) (s : State) : (settleClocks n s).v = s.v := rfl
@[simp] theorem settleClocks_busHeld (n : Nat) (s : State) : (settleClocks n s).busHeld = s.busHeld := rfl
@[simp] theorem settleClocks_busLog (n : Nat) (s : State) : (settleClocks n s).busLog = s.busLog := rfl
@[simp] theorem settleClocks_reads (n : Nat) (s : State) : (settleClocks n s).reads = s.reads := rfl
@[simp] theorem settleClocks_script (n : Nat) (s : State) : (settleClocks n s).script = s.script := rfl
@[simp] theorem settleClocks_drawn (n : Nat) (s : State) : (settleClocks n s).drawn = s.drawn := rfl
@[simp] theorem settleClocks_host (n : Nat) (s : State) : (settleClocks n s).host = s.host := rfl

/-- `n` clocks take SCNT down by `n`, and no lower than 0. -/
@[simp] theorem settleClocks_scnt (n : Nat) (s : State) : (settleClocks n s).scnt = s.scnt - n :=
  Nat.pred_iterate s.scnt n

end Sys2Proof.Machine
end

