-- ==== Sys2Proof/Laws/Ops.lean ====
section
/-! SUPPORT. What each shared operation can do, said once: acceptance, the sub-sequences, the engine step, the host
access, the host's turn, and the step. Later proofs cite these and unfold none of the operations. -/

namespace Sys2Proof.Machine

/-- The part of a command's meaning that follows the latching of its word. -/
def commandBody : Instr → State → State
  | .probe _ _ => checkAddress (goto (.probe .pb1))
  | .read16 _ _ => checkAddress (goto (.read16 .rd1))
  | .write16 _ _ => checkAddress (fun s => goto (.write16 .wr1) { s with v := s.opd })
  | .configure _ _ => checkAddress (goto (.configure (.r1 .rd1)))
  | .readTemp _ _ => checkAddress (goto (.readTemp .rd1))
  | .force _ _ => fun s => finish .noErr 0#2 { s with fval := force12 Config.modeParams s.opd }
  | .decode _ _ => fun s => finish .noErr 0#2 (setSample s.opd s)

/-- Every command is an acceptance of its word: it always answers a next state. -/
theorem exec_eq (i : Instr) (s : State) :
    exec i s = .next (acceptCommand (encode i) (commandBody i) s) := by
  cases i <;> rfl

theorem acceptCommand_busy {c : Word} {body : State → State} {s : State} (h : s.status.busy = true) :
    acceptCommand c body s = s := by
  simp [acceptCommand, h]

theorem acceptCommand_idle {c : Word} {body : State → State} {s : State} (h : s.status.busy = false) :
    acceptCommand c body s = body (latchCommand c s) := by
  simp [acceptCommand, h]

/-- What `exec` can do: nothing while BUSY, else latch the word and go on. -/
theorem exec_cases {i : Instr} {s t : State} (h : exec i s = .next t) :
    (s.status.busy = true ∧ t = s) ∨
      (s.status.busy = false ∧ t = commandBody i (latchCommand (encode i) s)) := by
  rw [exec_eq] at h
  cases hb : s.status.busy with
  | true => exact .inl ⟨rfl, by simpa [acceptCommand_busy hb] using h.symm⟩
  | false => exact .inr ⟨rfl, by simpa [acceptCommand_idle hb] using h.symm⟩

/-- The two outcomes of the address check. -/
theorem checkAddress_cases (start : State → State) (s : State) :
    (addrBit7 s.cmdl = true ∧ checkAddress start s = finish .badAddr 0#2 s) ∨
      (addrBit7 s.cmdl = false ∧ checkAddress start s = start s) := by
  cases h : addrBit7 s.cmdl <;> simp [checkAddress, h]

/-- What a command does after its word is latched: BAD_ADDR, the first step of its sequence, or for the two local
commands its result. -/
theorem commandBody_cases (i : Instr) (s : State) :
    (i.usesBus = true ∧ addrBit7 s.cmdl = true ∧ commandBody i s = finish .badAddr 0#2 s) ∨
    (i.usesBus = true ∧ addrBit7 s.cmdl = false ∧
      ((opcodeOf i ≠ 0x3#4 ∧ ∃ l, fsmOpcode l = some (opcodeOf i) ∧ waitsRequest l = false ∧
          afterForcing l = false ∧ (l ≠ .idle ∧ l ≠ .configure .settle ∧ ∀ k, l ≠ .write16 k) ∧
          commandBody i s = goto l s) ∨
        (opcodeOf i = 0x3#4 ∧ commandBody i s = goto (.write16 .wr1) { s with v := s.opd }))) ∨
    (i.usesBus = false ∧ opcodeOf i = 0x6#4 ∧
      commandBody i s = finish .noErr 0#2 { s with fval := force12 Config.modeParams s.opd }) ∨
    (i.usesBus = false ∧ opcodeOf i = 0x7#4 ∧
      commandBody i s = finish .noErr 0#2 (setSample s.opd s)) := by
  cases i with
  | probe a r =>
    rcases checkAddress_cases (goto (.probe .pb1)) s with ⟨h, e⟩ | ⟨h, e⟩
    · exact .inl ⟨rfl, h, e⟩
    · exact .inr (.inl ⟨rfl, h, .inl ⟨by simp [opcodeOf], _, rfl, rfl, rfl, by simp, e⟩⟩)
  | read16 a r =>
    rcases checkAddress_cases (goto (.read16 .rd1)) s with ⟨h, e⟩ | ⟨h, e⟩
    · exact .inl ⟨rfl, h, e⟩
    · exact .inr (.inl ⟨rfl, h, .inl ⟨by simp [opcodeOf], _, rfl, rfl, rfl, by simp, e⟩⟩)
  | write16 a r =>
    rcases checkAddress_cases (fun s => goto (.write16 .wr1) { s with v := s.opd }) s with ⟨h, e⟩ | ⟨h, e⟩
    · exact .inl ⟨rfl, h, e⟩
    · exact .inr (.inl ⟨rfl, h, .inr ⟨rfl, e⟩⟩)
  | configure a r =>
    rcases checkAddress_cases (goto (.configure (.r1 .rd1))) s with ⟨h, e⟩ | ⟨h, e⟩
    · exact .inl ⟨rfl, h, e⟩
    · exact .inr (.inl ⟨rfl, h, .inl ⟨by simp [opcodeOf], _, rfl, rfl, rfl, by simp, e⟩⟩)
  | readTemp a r =>
    rcases checkAddress_cases (goto (.readTemp .rd1)) s with ⟨h, e⟩ | ⟨h, e⟩
    · exact .inl ⟨rfl, h, e⟩
    · exact .inr (.inl ⟨rfl, h, .inl ⟨by simp [opcodeOf], _, rfl, rfl, rfl, by simp, e⟩⟩)
  | force a r => exact .inr (.inr (.inl ⟨rfl, rfl, rfl⟩))
  | decode a r => exact .inr (.inr (.inr ⟨rfl, rfl, rfl⟩))

/-- The engine keeps a part of the state that no primitive, label move, latch write or completion touches. -/
theorem engineStep_keeps {α : Type} (f : State → α) (d : Draw) (s : State)
    (hGoto : ∀ l t, f (goto l t) = f t) (hFinish : ∀ e p t, f (finish e p t) = f t)
    (hIssue : ∀ p t, f (issue p t) = f t) (hEnd : ∀ r a t, f (tEnd r a t) = f t)
    (hRequest : ∀ n t, f (tRequest n t) = f t) (hHi : ∀ b t, f { t with hi := b } = f t)
    (hRdata : ∀ v t, f { t with rdata := v } = f t) (hSample : ∀ w t, f (setSample w t) = f t)
    (hForced : ∀ a b c t, f { t with rdata := a, v := b, fval := c } = f t)
    (hScnt : ∀ n t, f { t with scnt := n } = f t) : f (engineStep d s) = f s := by
  have hRd : ∀ r ph lab onV (l : RdLabel), (∀ v t, f (onV v t) = f t) →
      f (rdStep r ph lab onV l d s) = f s := by
    intro r ph lab onV l hV
    cases l with
    | rd1 => simp only [rdStep, hGoto, tBegin, hIssue]
    | rd2 => simp only [rdStep, hGoto, tWrite, hIssue]
    | rd3 => simp only [rdStep]; split <;> simp only [hGoto, hFinish, hEnd]
    | rd4 => simp only [rdStep]; split <;> simp only [hGoto, hFinish, hRequest]
    | rd5 => simp only [rdStep, hGoto, hHi, tRead, hIssue]
    | rd6 => simp only [rdStep, hV, tRead, hIssue]
  have hWr : ∀ r ph lab onA (l : WrLabel), (∀ t, f (onA t) = f t) →
      f (wrStep r ph lab onA l d s) = f s := by
    intro r ph lab onA l hA
    cases l with
    | wr5 => simp only [wrStep]; split <;> simp only [hA, hFinish, hEnd]
    | _ => simp only [wrStep, hGoto, tBegin, tWrite, hIssue]
  unfold engineStep
  split
  · rfl
  · rename_i l _
    cases l with
    | pb1 => simp only [probeStep, hGoto, tBegin, hIssue]
    | pb2 => simp only [probeStep, hFinish, hEnd]
  · exact hRd _ _ _ _ _ (fun v t => by simp only [read16Value, hFinish, hRdata])
  · exact hWr _ _ _ _ _ (fun t => hFinish _ _ t)
  · rename_i l _
    cases l with
    | r1 l =>
      exact hRd Config.regMode 1#2 (fun l => .configure (.r1 l)) configureValue l
        (fun v t => by simp only [configureValue, hGoto, hForced])
    | wr l =>
      exact hWr Config.regMode 2#2 (fun l => .configure (.wr l)) configureWritten l
        (fun t => by simp only [configureWritten, hGoto, hScnt])
    | settle => simp only [configureStep, settleStep, settleClocks, hGoto, hScnt]
    | r2 l =>
      exact hRd Config.regMode 3#2 (fun l => .configure (.r2 l)) configureReadback l
        (fun v t => by simp only [configureReadback, hFinish, hRdata])
  · exact hRd _ _ _ _ _ (fun v t => by simp only [readTempValue, hFinish, hSample, hRdata])

/-- What a host access can do: record a read, accept a command word, store WDATA, nothing, or a refusal. -/
theorem hostAccess_cases {a : Access} {s t : State} (h : hostAccess a s = .next t) :
    (∃ w, t = { s with reads := s.reads ++ [w] }) ∨
      (∃ c i, a = .write 0x00 4 c ∧ decodeWord c = .ok i ∧ exec i s = .next t) ∨
      (∃ c e, a = .write 0x00 4 c ∧ decodeWord c = .error e ∧ t = acceptIllegal c s) ∨ (∃ w, t = writeWdata w s) ∨ t = s := by
  cases a with
  | read off width =>
    simp only [hostAccess] at h
    split at h
    · exact .inl ⟨_, (Host.Outcome.next.inj h).symm⟩
    · cases h
  | write off width v =>
    simp only [hostAccess] at h
    split at h
    · rename_i hd
      have hw : width = 4 := by simp [accessDefined] at hd; exact hd.1.1
      subst hw
      unfold windowWrite at h
      split at h
      · unfold writeCmd at h
        split at h
        · rename_i i hd
          exact .inr (.inl ⟨v, i, rfl, hd, h⟩)
        · rename_i e hd
          exact .inr (.inr (.inl ⟨v, e, rfl, hd, (Host.Outcome.next.inj h).symm⟩))
      · exact .inr (.inr (.inr (.inl ⟨v, (Host.Outcome.next.inj h).symm⟩)))
      · exact .inr (.inr (.inr (.inr (Host.Outcome.next.inj h).symm)))
    · cases h

/-- The host's turn changes the RTE only by one host access; all else it does is its own business. -/
theorem hostTurn_cases {s t : State} (h : hostTurn s = .next t) :
    (∃ g, t = { s with host := g }) ∨
      (∃ a g u g', hostAccess a { s with host := g } = .next u ∧ t = { u with host := g' } ∧
        ∀ c, a = .write 0x00 4 c → ∃ e, currentStmt s.host = some (.wr 0x00 e) ∧ evalExpr e s.host = c) := by
  have hj : ∀ l, hostJump l s = .next t → ∃ g, t = { s with host := g } := by
    intro l hl
    unfold hostJump at hl
    split at hl
    · exact ⟨_, (Host.Outcome.next.inj hl).symm⟩
    · cases hl
  have hA : ∀ a g, (∀ c, a = .write 0x00 4 c → ∃ e, currentStmt s.host = some (.wr 0x00 e) ∧
        evalExpr e s.host = c) → thenAdvance (hostAccess a { s with host := g }) = .next t →
      ∃ a g u g', hostAccess a { s with host := g } = .next u ∧ t = { u with host := g' } ∧
        ∀ c, a = .write 0x00 4 c → ∃ e, currentStmt s.host = some (.wr 0x00 e) ∧
          evalExpr e s.host = c := by
    intro a g hc ha
    cases hr : hostAccess a { s with host := g } with
    | next u =>
      rw [hr] at ha
      exact ⟨a, g, u, _, hr, (Host.Outcome.next.inj ha).symm, hc⟩
    | fault f => rw [hr] at ha; cases ha
    | refused f => rw [hr] at ha; cases ha
  unfold hostTurn at h
  split at h
  · rename_i st hst
    cases st with
    | label l => exact .inl ⟨_, (Host.Outcome.next.inj h).symm⟩
    | wr off e =>
      exact .inr (hA (.write off 4 (evalExpr e s.host)) s.host
        (fun c hc => by cases hc; exact ⟨e, hst, rfl⟩) h)
    | rd x off => exact .inr (hA _ _ (fun c hc => by cases hc) h)
    | beq x f k l =>
      simp only [runStmt] at h
      split at h
      · exact .inl (hj l h)
      · exact .inl ⟨_, (Host.Outcome.next.inj h).symm⟩
    | bne x f k l =>
      simp only [runStmt] at h
      split at h
      · exact .inl ⟨_, (Host.Outcome.next.inj h).symm⟩
      · exact .inl (hj l h)
    | jmp l => exact .inl (hj l h)
    | halt => exact .inl ⟨_, (Host.Outcome.next.inj h).symm⟩
    | emit es => exact .inl ⟨_, (Host.Outcome.next.inj h).symm⟩
  · exact .inl ⟨s.host, (Host.Outcome.next.inj h).symm⟩

/-- A state that differs from `s` only in the bookkeeping of the agents outside: script, count of free values, host,
and recorded reads. -/
def sameRte (s u : State) : Prop :=
  ∃ reads script drawn host,
    u = { s with reads := reads, script := script, drawn := drawn, host := host }

/-- What one step can do to the RTE: nothing; accept the command the host writes to CMD in this step; accept an illegal
word it writes; store WDATA; one engine step; or reset, which is the next event of the script. -/
theorem step_cases {s t : State} (h : step s = .next t) :
    ∃ u, sameRte s u ∧
      (sameRte u t ∨
        (∃ c i v, writesCmd s c ∧ decodeWord c = .ok i ∧ exec i u = .next v ∧ sameRte v t) ∨
        (∃ c e, writesCmd s c ∧ decodeWord c = .error e ∧ sameRte (acceptIllegal c u) t) ∨
        (∃ w, sameRte (writeWdata w u) t) ∨
        (tookEngineStep s t ∧ ∃ d, t = engineStep d u) ∨
        (s.script.head? = some .reset ∧ t = resetRte u)) := by
  have hAccess : ∀ (u t' : State) a, sameRte s u → sameRte t' t →
      (∀ c, a = .write 0x00 4 c → writesCmd s c) → hostAccess a u = .next t' →
      sameRte u t ∨ (∃ c i v, writesCmd s c ∧ decodeWord c = .ok i ∧ exec i u = .next v ∧ sameRte v t) ∨
        (∃ c e, writesCmd s c ∧ decodeWord c = .error e ∧ sameRte (acceptIllegal c u) t) ∨
        (∃ w, sameRte (writeWdata w u) t) := by
    intro u t' a hu ht hc ha
    rcases hostAccess_cases ha with ⟨w, rfl⟩ | ⟨c, i, hw, hd, he⟩ | ⟨c, e, hw, hd, rfl⟩ | ⟨w, rfl⟩ | rfl
    · obtain ⟨_, _, _, _, rfl⟩ := ht
      exact .inl ⟨_, _, _, _, rfl⟩
    · exact .inr (.inl ⟨c, i, _, hc c hw, hd, he, ht⟩)
    · exact .inr (.inr (.inl ⟨c, e, hc c hw, hd, ht⟩))
    · exact .inr (.inr (.inr ⟨w, ht⟩))
    · exact .inl ht
  have hTurn : ∀ u, sameRte s u → u.host = s.host → hostMoves s → hostTurn u = .next t →
      ∃ u, sameRte s u ∧
        (sameRte u t ∨
          (∃ c i v, writesCmd s c ∧ decodeWord c = .ok i ∧ exec i u = .next v ∧ sameRte v t) ∨
          (∃ c e, writesCmd s c ∧ decodeWord c = .error e ∧ sameRte (acceptIllegal c u) t) ∨
          (∃ w, sameRte (writeWdata w u) t)) := by
    intro u hu hh hm ht
    obtain ⟨r, sc, dr, ho, rfl⟩ := hu
    rcases hostTurn_cases ht with ⟨g, rfl⟩ | ⟨a, g, v, g', ha, rfl, hw⟩
    · exact ⟨_, ⟨r, sc, dr, ho, rfl⟩, .inl ⟨_, _, _, _, rfl⟩⟩
    · refine ⟨_, ⟨r, sc, dr, g, rfl⟩, hAccess _ _ _ ⟨r, sc, dr, g, rfl⟩ ⟨_, _, _, _, rfl⟩ ?_ ha⟩
      intro c hc
      obtain ⟨e, h1, h2⟩ := hw c hc
      exact .inr ⟨hm, e, by rw [← hh]; exact h1, by rw [← hh]; exact h2⟩
  have hWide : ∀ {u : State},
      (sameRte u t ∨
        (∃ c i v, writesCmd s c ∧ decodeWord c = .ok i ∧ exec i u = .next v ∧ sameRte v t) ∨
        (∃ c e, writesCmd s c ∧ decodeWord c = .error e ∧ sameRte (acceptIllegal c u) t) ∨
        (∃ w, sameRte (writeWdata w u) t)) →
      (sameRte u t ∨
        (∃ c i v, writesCmd s c ∧ decodeWord c = .ok i ∧ exec i u = .next v ∧ sameRte v t) ∨
        (∃ c e, writesCmd s c ∧ decodeWord c = .error e ∧ sameRte (acceptIllegal c u) t) ∨
        (∃ w, sameRte (writeWdata w u) t) ∨
        (tookEngineStep s t ∧ ∃ d, t = engineStep d u) ∨
        (s.script.head? = some .reset ∧ t = resetRte u)) := by
    rintro u (h | h | h | h)
    · exact .inl h
    · exact .inr (.inl h)
    · exact .inr (.inr (.inl h))
    · exact .inr (.inr (.inr (.inl h)))
  unfold step advance at h
  split at h
  · rename_i e rest hs
    have hu : sameRte s { s with script := rest } := ⟨_, _, _, _, rfl⟩
    cases e with
    | access a =>
      refine ⟨_, hu, hWide (hAccess _ _ a hu ⟨_, _, _, _, rfl⟩ ?_ h)⟩
      rintro c rfl
      exact .inl (by rw [hs]; rfl)
    | hostTurn =>
      obtain ⟨u, hu, h⟩ := hTurn _ hu rfl (.inl (by rw [hs]; rfl)) h
      exact ⟨u, hu, hWide h⟩
    | engine d =>
      have ht := (Host.Outcome.next.inj h).symm
      exact ⟨_, hu, .inr (.inr (.inr (.inr (.inl ⟨.inl ⟨d, rest, hs, ht⟩, d, ht⟩))))⟩
    | reset =>
      exact ⟨_, hu, .inr (.inr (.inr (.inr (.inr ⟨by rw [hs]; rfl, (Host.Outcome.next.inj h).symm⟩))))⟩
  · rename_i hs
    split at h
    · rename_i hi
      obtain ⟨u, hu, h⟩ := hTurn s ⟨s.reads, s.script, s.drawn, s.host, rfl⟩ rfl (.inr ⟨hs, .inl hi⟩) h
      exact ⟨u, hu, hWide h⟩
    · rename_i hi
      have hu : sameRte s { s with drawn := s.drawn + 1 } := ⟨_, _, _, _, rfl⟩
      by_cases hf : (hostReady s && Config.freeHostFirst s.drawn) = true
      · have hm : freeEvent s = .hostTurn := by rw [freeEvent, if_pos hf]
        rw [hm] at h
        obtain ⟨u, hu, h⟩ := hTurn _ hu rfl (.inr ⟨hs, .inr hm⟩) h
        exact ⟨u, hu, hWide h⟩
      · rw [freeEvent, if_neg hf] at h
        have ht := (Host.Outcome.next.inj h).symm
        exact ⟨_, hu, .inr (.inr (.inr (.inr (.inl ⟨.inr ⟨hs, hi, _, ht⟩, _, ht⟩))))⟩

end Sys2Proof.Machine
end

