-- ==== Sys2Proof/Laws/PerInstr.lean ====
section
/-! SUPPORT. The per-instruction family TableMatch: the word of a command has the mask and match of its row in the
opcode table (30_encoding.md R75), one lemma per command. -/

namespace Sys2Proof.Laws.TableMatch

/-- The word of the command, masked, is the match word of its row. -/
def Statement (i : Instr) : Prop := encode i &&& tableMask = tableMatch i

/-- The mask leaves the opcode of an assembled word and clears ADDR and REG. -/
theorem encodeFields_masked (op : BitVec 4) (a r : Byte) :
    encodeFields op a r &&& tableMask = op.setWidth 32 := by
  unfold encodeFields tableMask
  ext j h
  interval_cases j <;> simp

theorem probe (a r : Byte) : Statement (.probe a r) := encodeFields_masked 0x1#4 a r
theorem read16 (a r : Byte) : Statement (.read16 a r) := encodeFields_masked 0x2#4 a r
theorem write16 (a r : Byte) : Statement (.write16 a r) := encodeFields_masked 0x3#4 a r
theorem configure (a r : Byte) : Statement (.configure a r) := encodeFields_masked 0x4#4 a r
theorem readTemp (a r : Byte) : Statement (.readTemp a r) := encodeFields_masked 0x5#4 a r
theorem force (a r : Byte) : Statement (.force a r) := encodeFields_masked 0x6#4 a r
theorem decode (a r : Byte) : Statement (.decode a r) := encodeFields_masked 0x7#4 a r

end Sys2Proof.Laws.TableMatch
end

