-- ==== Sys2Proof/Laws/Runs.lean ====
section
/-! SUPPORT. Runs of engine steps: how they compose, that they leave the script alone, and what a whole register read
and a whole register write do for every answer of the transport. -/

namespace Sys2Proof.Machine

/-- A word that is no command: ignored while BUSY, else completed with ILLEGAL (R78, R83). -/
theorem acceptIllegal_cases (c : Word) (s : State) :
    (s.status.busy = true ∧ acceptIllegal c s = s) ∨
      (s.status.busy = false ∧ acceptIllegal c s = finish .illegal 0#2 (latchCommand c s)) := by
  cases h : s.status.busy <;> simp [acceptIllegal, acceptCommand, h]

/-- Engine runs compose. -/
theorem engineRun_append (a b : List Draw) (s : State) : engineRun (a ++ b) s = engineRun b (engineRun a s) := by
  induction a generalizing s with
  | nil => rfl
  | cons d ds ih => exact ih _

/-- An idle engine does nothing, whatever is drawn (R33). -/
theorem engineRun_idle (ds : List Draw) (s : State) (h : s.fsm = .idle) : engineRun ds s = s := by
  induction ds with
  | nil => rfl
  | cons d ds ih =>
    have : engineStep d s = s := by simp [engineStep, h]
    rw [engineRun, this, ih]

/-- An engine step does not look at the script. -/
theorem engineStep_script (d : Draw) (s : State) (x : List Event) :
    engineStep d { s with script := x } = { engineStep d s with script := x } := by
  cases hf : s.fsm with
  | idle => simp [engineStep, hf]
  | probe l => cases l <;> simp [engineStep, hf, probeStep] <;> rfl
  | read16 l => cases l <;> simp [engineStep, hf, read16Step, rdStep] <;> first | rfl | (split <;> rfl)
  | write16 l => cases l <;> simp [engineStep, hf, write16Step, wrStep] <;> first | rfl | (split <;> rfl)
  | readTemp l => cases l <;> simp [engineStep, hf, readTempStep, rdStep] <;> first | rfl | (split <;> rfl)
  | configure l =>
    cases l with
    | r1 l => cases l <;> simp [engineStep, hf, configureStep, rdStep] <;> first | rfl | (split <;> rfl)
    | r2 l => cases l <;> simp [engineStep, hf, configureStep, rdStep] <;> first | rfl | (split <;> rfl)
    | wr l => cases l <;> simp [engineStep, hf, configureStep, wrStep] <;> first | rfl | (split <;> rfl)
    | settle => simp only [engineStep, hf, configureStep]; rfl

/-- An engine run does not look at the script. -/
theorem engineRun_script (ds : List Draw) (s : State) (x : List Event) :
    engineRun ds { s with script := x } = { engineRun ds s with script := x } := by
  induction ds generalizing s with
  | nil => rfl
  | cons d ds ih => show engineRun ds (engineStep d _) = _; rw [engineStep_script, ih]; rfl

/-- A whole register read from its first label: NACK, SHORT_READ, or the value in the caller's hands (R105). -/
theorem rd_run (r : Byte) (ph : BitVec 2) (lab : RdLabel → Fsm) (onV : Half → State → State)
    (s : State) (hstep : ∀ l d t, t.fsm = lab l → t.cmdl = s.cmdl → engineStep d t = rdStep r ph lab onV l d t)
    (hs : s.fsm = lab .rd1) (d1 d2 d3 d4 d5 d6 : Draw) :
    engineRun [d1, d2, d3, d4, d5, d6] s =
      if d3.ack = false then
        completed (statusErr .nack (finishPhase .nack (isConfigure s) ph))
          (selectPrims (busAddr s.cmdl) r false) s
      else if d4.n ≠ 2 then
        completed (statusErr .shortRead (finishPhase .shortRead (isConfigure s) ph))
          (shortPrims (busAddr s.cmdl) r d4.n) (released s)
      else
        onV (d5.byte ++ d6.byte)
          { received d5.byte d6.byte s with
              rdata := s.rdata, fsm := lab .rd6,
              busLog := s.busLog ++ readPrims (busAddr s.cmdl) r d5.byte d6.byte } := by
  simp only [engineRun]
  rw [hstep .rd1 d1 s hs rfl]; simp only [rdStep]
  rw [hstep .rd2 d2 _ (by simp) (by simp)]; simp only [rdStep]
  rw [hstep .rd3 d3 _ (by simp) (by simp)]; simp only [rdStep]
  cases h3 : d3.ack with
  | false =>
    simp only [Bool.false_eq_true, if_false, if_true]
    have hi : ∀ d t, t.fsm = .idle → engineStep d t = t := by intro d t h; simp [engineStep, h]
    rw [hi d4 _ (by simp), hi d5 _ (by simp), hi d6 _ (by simp)]
    simp [finish, goto, tEnd, tWrite, tBegin, issue, completed, selectPrims, isConfigure, statusFinished, statusErr]
  | true =>
    simp only [if_true]
    rw [hstep .rd4 d4 _ (by simp) (by simp)]; simp only [rdStep]
    by_cases h4 : d4.n = 2
    · simp only [h4, if_true]
      rw [hstep .rd5 d5 _ (by simp) (by simp)]; simp only [rdStep]
      rw [hstep .rd6 d6 _ (by simp) (by simp)]; simp only [rdStep]
      simp [goto, tEnd, tWrite, tBegin, tRead, tRequest, issue, received, readPrims, joinBytes]
    · simp only [h4, if_false]
      have hi : ∀ d t, t.fsm = .idle → engineStep d t = t := by intro d t h; simp [engineStep, h]
      rw [hi d5 _ (by simp), hi d6 _ (by simp)]
      simp [finish, goto, tEnd, tWrite, tBegin, tRequest, issue, completed, released, shortPrims,
        isConfigure, statusFinished, statusErr, h4]

/-- A whole register write from its first label: NACK, or the caller's part (R106). -/
theorem wr_run (r : Byte) (ph : BitVec 2) (lab : WrLabel → Fsm) (onA : State → State)
    (s : State) (hstep : ∀ l d t, t.fsm = lab l → t.cmdl = s.cmdl → engineStep d t = wrStep r ph lab onA l d t)
    (hs : s.fsm = lab .wr1) (d1 d2 d3 d4 d5 : Draw) :
    engineRun [d1, d2, d3, d4, d5] s =
      if d5.ack = false then
        completed (statusErr .nack (finishPhase .nack (isConfigure s) ph))
          (writePrims (busAddr s.cmdl) r s.v false) s
      else
        onA { s with fsm := lab .wr5, busLog := s.busLog ++ writePrims (busAddr s.cmdl) r s.v true } := by
  simp only [engineRun]
  rw [hstep .wr1 d1 s hs rfl]; simp only [wrStep]
  rw [hstep .wr2 d2 _ (by simp) (by simp)]; simp only [wrStep]
  rw [hstep .wr3 d3 _ (by simp) (by simp)]; simp only [wrStep]
  rw [hstep .wr4 d4 _ (by simp) (by simp)]; simp only [wrStep]
  rw [hstep .wr5 d5 _ (by simp) (by simp)]; simp only [wrStep]
  cases h5 : d5.ack <;>
    simp [finish, goto, tEnd, tWrite, tBegin, issue, completed, writePrims, isConfigure, statusFinished, statusErr,
      highByte, lowByte]

end Sys2Proof.Machine
end

