-- ==== Sys2Proof/Tests/Slice0.lean ====
section
/-! SUPPORT. Checks of the model against the vectors of 95_test_vectors.md, the smoke tests of the well-formedness
checks, and for every statement with hypotheses a concrete state and operands that meet them. The expected values
are the spec's. -/

namespace Sys2Proof.Tests

open Sys2Proof Sys2Proof.Machine

/-! ### Helpers -/

/-- The state of a step that answers one. -/
def stateOf (r : Result) : Option State :=
  match r with
  | .next s => some s
  | .fault _ => none
  | .refused _ => none

/-- STATUS as the host reads it after the acceptance of a word at reset (V-ENC). -/
def acceptedStatus (c : Word) : Option Word := (stateOf (writeCmd c State.reset)).map (windowRead 0x08)

/-- A host that has written `operand` to WDATA, then `c` to CMD, and engine steps that draw `ds`. -/
def runFrom (s : State) (operand : Half) (c : Word) (ds : List Draw) : Option State :=
  (stateOf (writeCmd c { s with wdata := operand })).map (engineRun ds)

/-- A draw of an acknowledge. -/
def drawAck (a : Bool) : Draw := { ack := a, n := 0, byte := 0#8 }

/-- A draw of a count. -/
def drawN (n : Fin 3) : Draw := { ack := false, n := n, byte := 0#8 }

/-- A draw of a byte. -/
def drawByte (b : Byte) : Draw := { ack := false, n := 0, byte := b }

/-- The draws of a register read that succeeds with two bytes. -/
def readDraws (b1 b2 : Byte) : List Draw :=
  [drawN 0, drawN 0, drawAck true, drawN 2, drawByte b1, drawByte b2]

/-- The draws of a register write with the acknowledge of its end. -/
def writeDraws (a : Bool) : List Draw := [drawN 0, drawN 0, drawN 0, drawN 0, drawAck a]

/-- A state in which each register holds a value of its own and nothing runs. -/
def marked : State :=
  { State.reset with rdata := 0x1111#16, tempq := 0x22#32, tempf := 0x33#32, fval := 0x4444#16 }

/-- Instance B of V-FC: another admissible set of masks. -/
def instanceB : ModeParams :=
  { resMask := 0x0060#16, shdnMask := 0x0001#16, rateMask := 0x0018#16, rate1sps := 0x0008#16 }

/-! ### Well-formedness: an ill-formed term for each check -/

/-- A bus command's address has 7 bits (R79): 0x80 is refused, 0x7F is not. -/
theorem test_wf_address :
    Instr.wellFormed (.probe 0x80#8 0#8) = false ∧ Instr.wellFormed (.read16 0xFF#8 0#8) = false ∧
      Instr.wellFormed (.write16 0x80#8 1#8) = false ∧ Instr.wellFormed (.configure 0xC8#8 0#8) = false ∧
      Instr.wellFormed (.readTemp 0x80#8 0#8) = false ∧ Instr.wellFormed (.probe 0x7F#8 0#8) = true ∧
      Instr.wellFormed (.force 0xFF#8 0xFF#8) = true ∧ Instr.wellFormed (.decode 0x80#8 0#8) = true := by
  decide

/-- Only aligned 32-bit accesses inside the window are defined (R50, R51). -/
theorem test_wf_access :
    accessDefined 0x08 2 = false ∧ accessDefined 0x02 4 = false ∧ accessDefined 0x40 4 = false ∧
      accessDefined 0x3C 4 = true := by
  decide

/-- A program with a misaligned access, one outside the window, an undefined label, a label defined twice; and the
poll loop of `wait`, which is well formed (R81, R82). -/
theorem test_wf_program :
    programWellFormed [.rd 0 0x06] = false ∧ programWellFormed [.wr 0x40 (.const 0#32)] = false ∧
      programWellFormed [.jmp 3] = false ∧ programWellFormed [.label 1, .label 1] = false ∧
      programWellFormed (pseudoWait 1 0) = true := by
  decide

/-- The startup sequence for one device is program P1 (95_test_vectors.md §4), and the programs for the candidate list
of E9 are well formed. -/
theorem test_startup_program :
    startupProgram [0x48#8] =
      [.wr 0x00 (.const 0x00004801#32), .label 0, .rd 0 0x08, .bne 0 .busy 0#32 0, .rd 0 0x08,
        .bne 0 .ok 1#32 2, .wr 0x00 (.const 0x00004804#32), .label 1, .rd 0 0x08, .bne 0 .busy 0#32 1,
        .rd 0 0x08, .bne 0 .ok 0#32 2, .emit [.const 0x48#32], .label 2, .halt] ∧
      programWellFormed (startupProgram [0x4D#8, 0x48#8, 0x4F#8]) = true ∧
      programWellFormed (tickProgram [0x4D#8, 0x48#8, 0x4F#8]) = true := by
  decide

/-! ### Decoding: words written out from the layout of R70 (RSV1, REG, ADDR, RSV0, OP) -/

theorem test_decode_probe :
    decodeWord (0b00000000#8 ++ 0b11111111#8 ++ 0b01001000#8 ++ 0b0000#4 ++ 0b0001#4)
      = .ok (.probe 0x48#8 0xFF#8) := by rfl

theorem test_decode_read16 :
    decodeWord (0b00000000#8 ++ 0b00000001#8 ++ 0b01001000#8 ++ 0b0000#4 ++ 0b0010#4)
      = .ok (.read16 0x48#8 0x01#8) := by rfl

theorem test_decode_write16 :
    decodeWord (0b00000000#8 ++ 0b10000001#8 ++ 0b01001111#8 ++ 0b0000#4 ++ 0b0011#4)
      = .ok (.write16 0x4F#8 0x81#8) := by rfl

theorem test_decode_configure :
    decodeWord (0b00000000#8 ++ 0b00000000#8 ++ 0b01001000#8 ++ 0b0000#4 ++ 0b0100#4)
      = .ok (.configure 0x48#8 0x00#8) := by rfl

theorem test_decode_readtemp :
    decodeWord (0b00000000#8 ++ 0b10101010#8 ++ 0b01001000#8 ++ 0b0000#4 ++ 0b0101#4)
      = .ok (.readTemp 0x48#8 0xAA#8) := by rfl

theorem test_decode_force :
    decodeWord (0b00000000#8 ++ 0b00000000#8 ++ 0b00000000#8 ++ 0b0000#4 ++ 0b0110#4)
      = .ok (.force 0x00#8 0x00#8) := by rfl

theorem test_decode_decode :
    decodeWord (0b00000000#8 ++ 0b11111111#8 ++ 0b11111111#8 ++ 0b0000#4 ++ 0b0111#4)
      = .ok (.decode 0xFF#8 0xFF#8) := by rfl

/-- The illegal words of V-ENC, each by its own name. -/
theorem test_decode_illegal :
    decodeWord 0x00000000#32 = .error (.illegalOp 0#4) ∧ decodeWord 0x00000008#32 = .error (.illegalOp 8#4) ∧
      decodeWord 0x00004811#32 = .error (.reserved0 1#4) ∧
      decodeWord 0x01004801#32 = .error (.reserved1 1#8) ∧
      decodeWord 0x81008001#32 = .error (.reserved1 0x81#8) := ⟨rfl, rfl, rfl, rfl, rfl⟩

/-- Words assembled as R82 writes them: `enc(op, a, r)`. -/
theorem test_encode_words :
    encode (.probe 0x48#8 0#8) = 0x00004801#32 ∧ encode (.write16 0x48#8 0x01#8) = 0x00014803#32 ∧
      encode (.decode 0xFF#8 0xFF#8) = 0x00FFFF07#32 := by
  decide

/-- The table's words, as the host numbers their bits. -/
theorem test_table_words :
    decodeTableWord 32 0x00014802 = some (.read16 0x48#8 0x01#8) ∧ decodeTableWord 32 0x00000000 = none := by
  decide

/-! ### Acceptance (V-ENC) -/

theorem test_accept_bus_commands :
    acceptedStatus 0x00004801#32 = some 0x00000001#32 ∧ acceptedStatus 0x00014802#32 = some 0x00000001#32 ∧
      acceptedStatus 0x00014803#32 = some 0x00000001#32 ∧
      acceptedStatus 0x00004804#32 = some 0x00000001#32 ∧
      acceptedStatus 0x00AA4805#32 = some 0x00000001#32 ∧
      acceptedStatus 0x00007F01#32 = some 0x00000001#32 := by
  decide

theorem test_accept_local_commands :
    acceptedStatus 0x00000006#32 = some 0x00000006#32 ∧ acceptedStatus 0x00FFFF07#32 = some 0x00000006#32 := by
  decide

theorem test_accept_errors :
    acceptedStatus 0x00000000#32 = some 0x00000102#32 ∧ acceptedStatus 0x81008001#32 = some 0x00000102#32 ∧
      acceptedStatus 0x00008001#32 = some 0x00000202#32 ∧
      acceptedStatus 0x0000FF05#32 = some 0x00000202#32 := by
  decide

/-- The second command of program P4, schedule A: a word written while BUSY changes nothing. -/
theorem test_accept_while_busy :
    (runFrom State.reset 0#16 0x00004805#32 []).bind (fun s => stateOf (writeCmd 0x00004D01#32 s))
      = runFrom State.reset 0#16 0x00004805#32 [] := by
  decide

/-- The step of a scheduled command word is its acceptance. -/
theorem test_step_places_command :
    (stateOf (step (State.reset.withFetchWord 32 0x00004801))).map (fun s => (s.cmd, s.fsm))
      = some (0x00004801#32, .probe .pb1) := by
  decide

/-! ### The commands (V-PB, V-RD, V-WR, V-CF, V-FC, V-DEC) -/

/-- PB1: an acknowledged address. -/
theorem test_probe_present :
    (runFrom State.reset 0#16 0x00004801#32 [drawN 0, drawAck true]).map
        (fun s => (statusWord s.status, s.busLog))
      = some (0x00000006#32, [.tBegin 0x48#7, .tEnd true true]) := by
  decide

/-- PB2: an absent device. -/
theorem test_probe_absent :
    (runFrom State.reset 0#16 0x00004D01#32 [drawN 0, drawAck false]).map
        (fun s => (statusWord s.status, s.busLog))
      = some (0x00000302#32, [.tBegin 0x4D#7, .tEnd true false]) := by
  decide

/-- RD1: the first byte is the upper one, and the six primitives are in order. -/
theorem test_read16_ok :
    (runFrom State.reset 0#16 0x00014802#32 (readDraws 0x60#8 0xA0#8)).map
        (fun s => (statusWord s.status, windowRead 0x0C s, s.busLog))
      = some (0x00000006#32, 0x000060A0#32,
          [.tBegin 0x48#7, .tWrite 0x01#8, .tEnd false true, .tRequest 0x48#7 2 2, .tRead 0x60#8,
            .tRead 0xA0#8]) := by
  decide

/-- RD5: one byte is a short read; no byte is read and RDATA stays. -/
theorem test_read16_short :
    (runFrom marked 0#16 0x00014802#32 [drawN 0, drawN 0, drawAck true, drawN 1]).map
        (fun s => (statusWord s.status, windowRead 0x0C s, s.busLog.length))
      = some (0x00000402#32, 0x00001111#32, 4) := by
  decide

/-- WR3: the upper byte is sent first. -/
theorem test_write16_order :
    (runFrom State.reset 0x1234#16 0x00014803#32 (writeDraws true)).map
        (fun s => (statusWord s.status, s.busLog))
      = some (0x00000006#32,
          [.tBegin 0x48#7, .tWrite 0x01#8, .tWrite 0x12#8, .tWrite 0x34#8, .tEnd true true]) := by
  decide

/-- WR2: the acknowledge of the end decides. -/
theorem test_write16_nack :
    (runFrom marked 0x6060#16 0x00014803#32 (writeDraws false)).map
        (fun s => (statusWord s.status, windowRead 0x0C s, s.busLog.length))
      = some (0x00000302#32, 0x00001111#32, 5) := by
  decide

/-- CF3: a short initial read is an error of phase 1. -/
theorem test_configure_first_read :
    (runFrom marked 0#16 0x00004804#32 [drawN 0, drawN 0, drawAck true, drawN 1]).map
        (fun s => (statusWord s.status, windowRead 0x0C s, windowRead 0x18 s))
      = some (0x00001402#32, 0x00001111#32, 0x00004444#32) := by
  decide

/-- CF5: an unacknowledged readback, after the write and the one step of the settling wait, is an error of phase 3;
RDATA holds the initial value. -/
theorem test_configure_readback :
    (runFrom marked 0#16 0x00004804#32
        (readDraws 0x60#8 0xA0#8 ++ writeDraws true ++ [drawN 0] ++ [drawN 0, drawN 0, drawAck false])).map
        (fun s => (statusWord s.status, windowRead 0x0C s, s.busLog.length))
      = some (0x00003302#32, 0x000060A0#32, 14) := by
  decide

/-- FORCE issues nothing and completes at once; the vectors of V-FC are those of its function. -/
theorem test_force_reference :
    force12 {} 0x0000#16 = 0x6040#16 ∧ force12 {} 0xFFFF#16 = 0xFE7F#16 ∧ force12 {} 0x60A0#16 = 0x6060#16 ∧
      force12 {} 0x1234#16 = 0x7274#16 ∧ force12 {} 0x80FF#16 = 0xE07F#16 := by
  decide

/-- The other instance of V-FC. -/
theorem test_force_instance_b :
    force12 instanceB 0xFFFF#16 = 0xFFEE#16 ∧ force12 instanceB 0x60A0#16 = 0x60E8#16 ∧
      force12 instanceB 0x0078#16 = 0x0068#16 := by
  decide

/-- RT1: 25 degrees. -/
theorem test_readtemp_ok :
    (runFrom State.reset 0#16 0x00004805#32 (readDraws 0x19#8 0x00#8)).map
        (fun s => (windowRead 0x0C s, windowRead 0x10 s, windowRead 0x14 s))
      = some (0x00001900#32, 0x00000190#32, 0x41C80000#32) := by
  decide

/-- RT2: a NACK leaves the previous sample. -/
theorem test_readtemp_nack :
    (runFrom marked 0#16 0x00004805#32 [drawN 0, drawN 0, drawAck false]).map
        (fun s => (statusWord s.status, windowRead 0x10 s, windowRead 0x14 s))
      = some (0x00000302#32, 0x00000022#32, 0x00000033#32) := by
  decide

/-- E3: minus two degrees; the ADDR and REG fields do not matter. -/
theorem test_decode_command :
    (runFrom State.reset 0xFE00#16 0x00FFFF07#32 []).map
        (fun s => (statusWord s.status, windowRead 0x10 s, windowRead 0x14 s))
      = some (0x00000006#32, 0xFFFFFFE0#32, 0xC0000000#32) := by
  decide

/-- The edges of V-DEC. -/
theorem test_sample_floats :
    sampleFloat 0x000F#16 = 0x00000000#32 ∧ sampleFloat 0x0010#16 = 0x3D800000#32 ∧
      sampleFloat 0x7FFF#16 = 0x42FFE000#32 ∧ sampleFloat 0x8000#16 = 0xC3000000#32 ∧
      sampleFloat 0x8010#16 = 0xC2FFE000#32 ∧ sampleFloat 0xFFFF#16 = 0xBD800000#32 := by
  decide

/-- CF6 and CF7 of V-CF: the verify decision on their readbacks, with the reference masks. -/
theorem test_verified_reference :
    verified {} 0x0060#16 = false ∧ verified {} 0x6160#16 = true ∧ verified {} 0x6060#16 = true := by
  decide

/-! ### Witnesses: for each statement with hypotheses, a state and operands that meet them -/

/-- READTEMP of 0x48, just accepted. -/
def running : State :=
  { State.reset with
    cmd := 0x00004805#32, cmdl := 0x00004805#32, status := statusInProgress, fsm := .readTemp .rd1 }

/-- CONFIGURE of 0x48 in its settling wait, after a read of 0x60A0 (case RS2 of V-RST). -/
def settling : State :=
  { State.reset with
    cmd := 0x00004804#32, cmdl := 0x00004804#32, status := statusInProgress,
    fsm := .configure .settle, rdata := 0x60A0#16, v := force12 Config.modeParams 0x60A0#16,
    fval := force12 Config.modeParams 0x60A0#16, scnt := Config.settleCycles }

/-- A state at reset but for what comes next. -/
def next (e : Event) : State := { State.reset with script := [e] }

/-- The invariant meets a running command and the settling wait (EveryStepKeepsInv, SettleCounterFitsItsWidth,
EveryCommandCompletes). -/
theorem witness_inv_running : RteInv running ∧ running.status.busy = true := by
  refine ⟨⟨by simp [running, statusInProgress], .inr (.inl rfl), fun _ => rfl, by decide, by decide, rfl, ?_,
    by decide, by decide, Nat.zero_le _, by simp [running], fun _ => rfl, by simp [running], by decide, by decide⟩, rfl⟩
  intro op h
  exact ⟨.readTemp 0x48#8 0x00#8, rfl, Option.some.inj h, rfl⟩

theorem witness_inv_settling : RteInv settling ∧ settling.status.busy = true := by
  refine ⟨⟨by simp [settling, statusInProgress], .inr (.inl rfl), fun _ => rfl, ?_, ?_, rfl, ?_, ?_, ?_,
    Nat.le_refl _, fun _ => rfl, fun h => absurd rfl h, by simp [settling], fun _ => ⟨rfl, rfl⟩, ?_⟩, rfl⟩
  · intro h; cases h
  · intro h; cases h
  · intro op h
    exact ⟨.configure 0x48#8 0x00#8, rfl, Option.some.inj h, rfl⟩
  · show (0#32 : Word) = ((0#32 : Word).extractLsb' 0 12).signExtend 32
    decide
  · rfl
  · intro h; cases h

theorem witness_inv_step :
    (∃ t, step { running with script := [.engine (drawN 0)] } = .next t) ∧ (∃ t, step settling = .next t) := by
  refine ⟨⟨_, rfl⟩, _, rfl⟩

theorem witness_every_command_completes :
    (∃ ds : List Draw, stepsLeft running ≤ ds.length) ∧ (∃ ds : List Draw, stepsLeft settling ≤ ds.length) :=
  ⟨⟨List.replicate 6 (drawN 0), by decide⟩,
    ⟨List.replicate (stepsLeft settling) (drawN 0), by rw [List.length_replicate]⟩⟩

/-- ResetStepClearsEveryRegister, RdataChangesOnlyAfterARead and the other statements with a reset in them. -/
theorem witness_reset : { settling with script := [Event.reset] }.script = .reset :: [] := rfl

/-- DecodeEncodeAgree. -/
theorem witness_decodes : decodeWord 0x00014802#32 = .ok (.read16 0x48#8 0x01#8) := rfl

/-- StepRunsTheDecodedCommand. -/
theorem witness_command_next :
    (next (.access (.write 0x00 4 0x00014802#32))).script = .access (.write 0x00 4 0x00014802#32) :: [] ∧
      decodeWord 0x00014802#32 = .ok (.read16 0x48#8 0x01#8) := ⟨rfl, rfl⟩

/-- StepFollowsTheSchedule, one for each clause. -/
theorem witness_schedule :
    (next (.access (.read 0x08 4))).script = .access (.read 0x08 4) :: [] ∧
      (next .hostTurn).script = .hostTurn :: [] ∧
      (next (.engine (drawN 0))).script = .engine (drawN 0) :: [] ∧ (next .reset).script = .reset :: [] ∧
      (State.reset.script = [] ∧ State.reset.fsm = .idle) ∧ (running.script = [] ∧ running.fsm ≠ .idle) := by
  refine ⟨rfl, rfl, rfl, rfl, ⟨rfl, rfl⟩, rfl, by simp [running]⟩

/-- ScriptedStepsAreTheEngineRun, with no step, and with one. -/
theorem witness_engine_script :
    State.reset.script = ([] : List Draw).map Event.engine ++ [] ∧
      { running with script := [Event.engine (drawN 0), Event.hostTurn] }.script
        = [drawN 0].map Event.engine ++ [Event.hostTurn] := ⟨rfl, rfl⟩

/-- CommandWhileBusyIsIgnored. -/
theorem witness_busy_command :
    { running with script := [Event.access (.write 0x00 4 0x00004D01#32)] }.status.busy = true := rfl

/-- IllegalWordCompletesAtOnce, one for each alternative, at its edge. -/
theorem witness_illegal :
    State.reset.status.busy = false ∧ ((0x00000000#32 : Word).extractLsb' 0 4).toNat = 0 ∧
      8 ≤ ((0x00000008#32 : Word).extractLsb' 0 4).toNat ∧
      (0x00004811#32 : Word).extractLsb' 4 4 ≠ 0#4 ∧ (0x01004801#32 : Word).extractLsb' 24 8 ≠ 0#8 := by
  decide

/-- BadAddressCompletesAtOnce, at 0x80 and at 0xFF, and its second clause. -/
theorem witness_bad_address :
    Instr.usesBus (.probe 0x80#8 0#8) = true ∧ 0x80 ≤ (Instr.addr (.probe 0x80#8 0#8)).toNat ∧
      0x80 ≤ (Instr.addr (.readTemp 0xFF#8 0#8)).toNat ∧
      Instr.usesBus (.force 0x80#8 0#8) = false ∧
      (∃ t, exec (.force 0x80#8 0#8) State.reset = .next t) := by
  refine ⟨rfl, by decide, by decide, rfl, _, rfl⟩

/-- BusCommandsAreAccepted and the statements of whole commands, at the edges of the legal addresses; the local
commands ask only that nothing runs. -/
theorem witness_legal_address :
    State.reset.status.busy = false ∧ (0x00#8 : Byte).toNat < 0x80 ∧ (0x7F#8 : Byte).toNat < 0x80 := by
  decide

/-- A 16-bit value is its two bytes. -/
theorem bytes_of_half (w : Half) : w.extractLsb' 8 8 ++ w.extractLsb' 0 8 = w := by
  apply BitVec.eq_of_getLsbD_eq
  intro i hi
  rw [BitVec.getLsbD_append]
  split
  · simp; omega
  · rename_i h
    have h8 : i - 8 < 8 := by omega
    simp only [BitVec.getLsbD_extractLsb', h8, decide_true, Bool.true_and, show 8 + (i - 8) = i by omega]

/-- SecondConfigureReadsBackTheSame: the answers of a device for two CONFIGURE commands in succession. -/
theorem witness_configure_answers (v rb : Half) : ∃ ds, AnswersConfigure v rb ds :=
  ⟨_, _, _, drawN 0, _, rfl,
    ⟨drawN 0, drawN 0, drawAck true, drawN 2, drawByte (v.extractLsb' 8 8), drawByte (v.extractLsb' 0 8), rfl, rfl,
      rfl, bytes_of_half _⟩,
    ⟨drawN 0, drawN 0, drawN 0, drawN 0, drawAck true, rfl, rfl⟩,
    ⟨drawN 0, drawN 0, drawAck true, drawN 2, drawByte (rb.extractLsb' 8 8), drawByte (rb.extractLsb' 0 8), rfl, rfl,
      rfl, bytes_of_half _⟩⟩

/-- AcceptanceFrame: each command answers a next state, and each condition on the opcode is met by one. -/
theorem witness_acceptance :
    (∀ i : Instr, ∃ t, exec i State.reset = .next t) ∧ opcodeOf (.probe 0#8 0#8) ≠ 0x6#4 ∧
      opcodeOf (.force 0#8 0#8) ≠ 0x7#4 ∧ opcodeOf (.decode 0#8 0#8) ≠ 0x3#4 := by
  refine ⟨fun i => ?_, by decide, by decide, by decide⟩
  cases i <;> exact ⟨_, rfl⟩

/-- SettleWaitCountsDown: the acknowledged end of CONFIGURE's write, and the wait. -/
theorem witness_settle :
    ({ settling with fsm := .configure (.wr .wr5) }.fsm = .configure (.wr .wr5) ∧ (drawAck true).ack = true) ∧
      settling.fsm = .configure .settle := ⟨⟨rfl, rfl⟩, rfl⟩

/-- SampleIsTheUpperTwelveBits: two words that differ in the padding only. -/
theorem witness_padding :
    (0x1900#16 : Half).extractLsb' 4 12 = (0x190F#16 : Half).extractLsb' 4 12 ∧
      (0x1900#16 : Half) ≠ 0x190F#16 := by
  decide

/-- CelsiusTakesExactlyTheSixteenths, at both ends. -/
theorem witness_sixteenths :
    celsius 0x8000#16 = ((-2048 : Int) : ℚ) / 16 ∧ celsius 0x7FF0#16 = ((2047 : Int) : ℚ) / 16 := by
  constructor <;> simp only [celsius] <;> congr 2

/-- ReadsReturnTheRegisters, at the first and the last offset; OtherOffsetsIgnoreWrites, at its edges. -/
theorem witness_offsets :
    (next (.access (.read 0x00 4))).script = .access (.read 0x00 4) :: [] ∧
      (next (.access (.read 0x3C 4))).script = .access (.read 0x3C 4) :: [] ∧
      (next (.access (.write 0x08 4 7#32))).script = .access (.write 0x08 4 7#32) :: [] ∧
      (next (.access (.write 0x3C 4 7#32))).script = .access (.write 0x3C 4 7#32) :: [] ∧
      ((0x00 < 0x40 ∧ 0x00 % 4 = 0) ∧ (0x3C < 0x40 ∧ 0x3C % 4 = 0) ∧ (0x1C < 0x40 ∧ 0x1C % 4 = 0)) := by
  refine ⟨rfl, rfl, rfl, rfl, by decide⟩

/-- WdataTakesTheLowHalf, while a command runs. -/
theorem witness_wdata :
    { running with script := [Event.access (.write 0x04 4 0xFFFF1234#32)] }.script
      = .access (.write 0x04 4 0xFFFF1234#32) :: [] := rfl

/-- UndefinedAccessesAreRefused: each alternative, for a read and for a write, at its edge. -/
theorem witness_undefined :
    (next (.access (.read 0x08 2))).script = .access (.read 0x08 2) :: [] ∧
      (next (.access (.write 0x08 1 0#32))).script = .access (.write 0x08 1 0#32) :: [] ∧
      ((2 ≠ 4) ∧ (0x3E % 4 ≠ 0) ∧ (0x40 ≤ 0x40)) := by
  refine ⟨rfl, rfl, by decide⟩

/-- EngineStepIssuesOnePrimitive: a step that issues, the settling wait, and an idle engine. -/
theorem witness_engine_labels :
    (running.fsm ≠ .idle ∧ running.fsm ≠ .configure .settle) ∧ settling.fsm = .configure .settle ∧
      State.reset.fsm = .idle := by
  refine ⟨⟨by simp [running], by simp [running]⟩, rfl, rfl⟩

/-- OnlyTheEngineReachesTheBus: an engine step that issues. -/
theorem witness_bus :
    ∃ t, step { running with script := [Event.engine (drawN 0)] } = .next t ∧ t.busLog ≠ [] :=
  ⟨_, rfl, by decide⟩

/-- RdataChangesOnlyAfterARead: the last step of READTEMP's read. -/
theorem witness_rdata :
    ∃ t, step { running with fsm := .readTemp .rd6, script := [Event.engine (drawByte 0x19#8)] } = .next t ∧
      t.rdata ≠ running.rdata :=
  ⟨_, rfl, by decide⟩

/-- TemperatureChangesOnlyBySample: DECODE of 0x1900. -/
theorem witness_temperature :
    ∃ t, step { next (.access (.write 0x00 4 0x00000007#32)) with wdata := 0x1900#16 } = .next t ∧
      t.tempq ≠ State.reset.tempq :=
  ⟨_, rfl, by decide⟩

/-- FvalChangesOnlyByForcing: FORCE where FVAL holds another value. -/
theorem witness_fval :
    ∃ t, step { next (.access (.write 0x00 4 0x00000006#32)) with
                fval := ~~~ force12 Config.modeParams 0#16 } = .next t ∧
      t.fval ≠ ~~~ force12 Config.modeParams 0#16 := by
  refine ⟨_, rfl, ?_⟩
  show force12 Config.modeParams 0#16 ≠ ~~~ force12 Config.modeParams 0#16
  generalize force12 Config.modeParams 0#16 = v
  intro h
  have h0 := congrArg (fun w : Half => w.getLsbD 0) h
  simp at h0

/-- StatusChangesOnlyAtAcceptanceAndFinish: an acceptance, a completion and a reset, each of which changes STATUS. -/
theorem witness_status :
    (∃ t, step (next (.access (.write 0x00 4 0x00004801#32))) = .next t ∧
        t.status ≠ State.reset.status) ∧
      (∃ t, step { running with fsm := .readTemp .rd3, script := [Event.engine (drawAck false)] } = .next t ∧
        t.status ≠ running.status) ∧
      (∃ t, step { running with script := [Event.reset] } = .next t ∧ t.status ≠ running.status) :=
  ⟨⟨_, rfl, by decide⟩, ⟨_, rfl, by decide⟩, _, rfl, by decide⟩

/-- NoCommandStartsWhileBusy. -/
theorem witness_no_command :
    (∃ t, step { running with script := [Event.access (.write 0x00 4 0x00004D01#32)] } = .next t) ∧
      running.status.busy = true := ⟨⟨_, rfl⟩, rfl⟩

/-- IgnoredFieldsHaveNoEffect: READTEMP with two registers, and FORCE with two addresses. -/
theorem witness_ignored :
    State.reset.fsm = .idle ∧ State.reset.status.busy = false ∧
      (∃ t, exec (.readTemp 0x48#8 0x00#8) State.reset = .next t) ∧
      (∃ u, exec (.readTemp 0x48#8 0xAA#8) State.reset = .next u) ∧
      (∃ t, exec (.force 0x00#8 0x00#8) State.reset = .next t) ∧
      (∃ u, exec (.force 0xFF#8 0xFF#8) State.reset = .next u) :=
  ⟨rfl, rfl, witness_acceptance.1 _, witness_acceptance.1 _, witness_acceptance.1 _, witness_acceptance.1 _⟩

/-- A host whose next statement is `st`. -/
def hostAt (st : Stmt) : State :=
  { State.reset with host := { HostAgent.empty with prog := [st, .label 7] } }

/-- The statement the hypotheses of HostStatementsRun look at. -/
def stmtAt (s : State) : Option Stmt := s.host.prog[s.host.pos]?

/-- HostStatementsRun, one for each clause: a halted host and one past its program; each statement, `wr` and `rd` at a
defined and an undefined offset; a branch whose field is the constant and one whose field is not; and a jump to a
label that is defined and to one that is not. -/
theorem witness_host :
    ({ HostAgent.empty with halted := true }.halted = true ∧ stmtAt State.reset = none) ∧
      (hostAt .halt).host.halted = false ∧ stmtAt (hostAt (.label 3)) = some (.label 3) ∧
      (stmtAt (hostAt (.wr 0x04 (.const 0x00001900#32))) = some (.wr 0x04 (.const 0x00001900#32)) ∧
        ∃ t, hostAccess (.write 0x04 4 0x00001900#32) (hostAt (.wr 0x04 (.const 0x00001900#32))) = .next t) ∧
      (stmtAt (hostAt (.wr 0x40 (.const 0#32))) = some (.wr 0x40 (.const 0#32)) ∧ accessDefined 0x40 4 = false) ∧
      (stmtAt (hostAt (.rd 0 0x3C)) = some (.rd 0 0x3C) ∧ 0x3C < 0x40 ∧ 0x3C % 4 = 0) ∧
      (stmtAt (hostAt (.rd 0 0x3E)) = some (.rd 0 0x3E) ∧ accessDefined 0x3E 4 = false) ∧
      stmtAt (hostAt (.bne 0 .busy 0#32 7)) = some (.bne 0 .busy 0#32 7) ∧
      stmtAt (hostAt (.beq 0 .ok 1#32 7)) = some (.beq 0 .ok 1#32 7) ∧
      stmtAt (hostAt (.jmp 7)) = some (.jmp 7) ∧ stmtAt (hostAt .halt) = some .halt ∧
      stmtAt (hostAt (.emit [.const 0x48#32, .var 1])) = some (.emit [.const 0x48#32, .var 1]) ∧
      (statusFieldOf .ok 0x00000006#32 = 1#32 ∧ statusFieldOf .ok 0x00000302#32 ≠ 1#32) ∧
      ((hostAt (.jmp 7)).host.prog[1]? = some (.label 7) ∧ Stmt.label 8 ∉ (hostAt (.jmp 8)).host.prog) := by
  refine ⟨⟨rfl, rfl⟩, ?_⟩
  simp [stmtAt, hostAt, HostAgent.empty, hostAccess, accessDefined, windowWrite, statusFieldOf]

end Sys2Proof.Tests
end

section
/-! PROOFS. Which agent a step belongs to (00_scope.md R13, 10_state.md R33): one equation of `step` for each state of
the schedule, and the two outcomes of the free choice. -/

namespace Sys2Proof.Machine

/-- The script decides (log 2): the step is its next event, whatever the engine is doing. -/
theorem step_of_script_cons {s : State} {e : Event} {rest : List Event} (hs : s.script = e :: rest) :
    step s = runEvent e { s with script := rest } := by
  simp only [step, advance, hs]

/-- With nothing scheduled and no command running, only the host's program can move. -/
theorem step_of_script_nil_idle {s : State} (hs : s.script = []) (hi : s.fsm = .idle) : step s = hostTurn s := by
  simp only [step, advance, hs, if_pos hi]

/-- With nothing scheduled and a command running, the step is the free choice and uses up one free value (log 3). -/
theorem step_of_script_nil_running {s : State} (hs : s.script = []) (hi : s.fsm ≠ .idle) :
    step s = runEvent (freeEvent s) { s with drawn := s.drawn + 1 } := by
  simp only [step, advance, hs, if_neg hi]

/-- The free choice is between a host that has a statement to execute and the engine with a free answer (log 1, 3). -/
theorem freeEvent_cases (s : State) :
    (freeEvent s = .hostTurn ∧ hostReady s = true) ∨ freeEvent s = .engine (freeDraw s.drawn) := by
  by_cases h : (hostReady s && Config.freeHostFirst s.drawn) = true
  · exact .inl ⟨if_pos h, (Bool.and_eq_true_iff.mp h).1⟩
  · exact .inr (if_neg h)

/-- Settles O12: `step` has one equation for each state of the schedule, and with a command running the free choice
has its two cases. -/
theorem stepFollowsTheSchedule : Obligations.StepFollowsTheSchedule := by
  intro s
  refine ⟨fun _ _ hs => step_of_script_cons hs, fun _ hs => step_of_script_cons hs,
    fun _ _ hs => step_of_script_cons hs, fun _ hs => step_of_script_cons hs, step_of_script_nil_idle, ?_⟩
  intro hs hi
  rw [step_of_script_nil_running hs hi]
  obtain ⟨hf, hready⟩ | hf := freeEvent_cases s
  · exact .inl ⟨by rw [hf, runEvent], hready⟩
  · exact .inr ⟨freeDraw s.drawn, by rw [hf, runEvent]⟩

end Sys2Proof.Machine
end

section
/-! PROOFS. The state family: the window and STATUS as the host reads them, what an accepted command, an engine step and
a step of the whole can do to the RTE (each said once), the invariant, and the statements that follow from these. -/

namespace Sys2Proof.Machine

/-! ### The host window (10_state.md R23 to R31, 20_memory.md R50 to R52) -/

/-- The window's registers by offset (R23). -/
theorem windowRead_eq (off : Nat) (s : State) :
    windowRead off s =
      if off = 0x00 then s.cmd
      else if off = 0x04 then s.wdata.setWidth 32
      else if off = 0x08 then statusWord s.status
      else if off = 0x0C then s.rdata.setWidth 32
      else if off = 0x10 then s.tempq
      else if off = 0x14 then s.tempf
      else if off = 0x18 then s.fval.setWidth 32
      else 0#32 := by
  unfold windowRead
  split
  case h_8 h0 h4 h8 hC h10 h14 h18 =>
    rw [if_neg h0, if_neg h4, if_neg h8, if_neg hC, if_neg h10, if_neg h14, if_neg h18]
  all_goals rfl

/-- The window from 0x1C up is reserved and reads as 0 (R31). -/
theorem windowRead_reserved {off : Nat} (h : 0x1C ≤ off) (s : State) : windowRead off s = 0#32 := by
  rw [windowRead_eq, if_neg (by omega), if_neg (by omega), if_neg (by omega), if_neg (by omega), if_neg (by omega),
    if_neg (by omega), if_neg (by omega)]

/-- After reset the whole window reads 0 (R38). -/
theorem windowRead_reset (off : Nat) : windowRead off State.reset = 0#32 := by
  rw [windowRead_eq]
  split_ifs <;> rfl

/-- A step of `rst` leaves the window as power-on does. -/
theorem windowRead_resetRte (off : Nat) (s : State) : windowRead off (resetRte s) = 0#32 :=
  windowRead_reset off

/-- An aligned 32-bit access inside the window is a defined one (R50). -/
theorem accessDefined_of_aligned {off : Nat} (hlt : off < 0x40) (hal : off % 4 = 0) : accessDefined off 4 = true := by
  simp [accessDefined, hlt, hal]

/-- A defined read records the register's value and changes nothing else (R52; log 11). -/
theorem hostAccess_read {off : Nat} (hlt : off < 0x40) (hal : off % 4 = 0) (s : State) :
    hostAccess (.read off 4) s = .next { s with reads := s.reads ++ [windowRead off s] } :=
  if_pos (accessDefined_of_aligned hlt hal)

/-- A defined write is the window's (R52). -/
theorem hostAccess_write {off : Nat} (hlt : off < 0x40) (hal : off % 4 = 0) (v : Word) (s : State) :
    hostAccess (.write off 4 v) s = windowWrite off v s :=
  if_pos (accessDefined_of_aligned hlt hal)

/-- Only CMD and WDATA act on a write (R31). -/
theorem windowWrite_ignored {off : Nat} (h : 0x08 ≤ off) (v : Word) (s : State) : windowWrite off v s = .next s := by
  unfold windowWrite
  split
  · omega
  · omega
  · rfl

/-- A write of a command's word to CMD is the command (R76). -/
theorem writeCmd_of_decodeWord {c : Word} {i : Instr} (h : decodeWord c = .ok i) (s : State) :
    writeCmd c s = exec i s := by
  simp only [writeCmd, h]

/-- Settles O36. -/
theorem readsReturnTheRegisters : Obligations.ReadsReturnTheRegisters := by
  intro s rest off hlt hal hs
  rw [step_of_script_cons hs, runEvent, hostAccess_read hlt hal, windowRead_eq]

/-- Settles O37. -/
theorem otherOffsetsIgnoreWrites : Obligations.OtherOffsetsIgnoreWrites := by
  intro s rest off v hlt hal h8
  refine ⟨fun hs => ?_, fun h1C => windowRead_reserved h1C s⟩
  rw [step_of_script_cons hs, runEvent, hostAccess_write hlt hal, windowWrite_ignored h8]

/-- Settles O38. -/
theorem wdataTakesTheLowHalf : Obligations.WdataTakesTheLowHalf := by
  intro s rest v hs
  rw [step_of_script_cons hs, runEvent, hostAccess_write (by decide) rfl, windowWrite, writeWdata]

/-- Settles O11. -/
theorem stepRunsTheDecodedCommand : Obligations.StepRunsTheDecodedCommand := by
  intro s rest c i hs hd
  rw [step_of_script_cons hs, runEvent, hostAccess_write (by decide) rfl, windowWrite, writeCmd_of_decodeWord hd]

/-- Settles O1: the step is `resetRte`, which keeps what is outside the RTE. -/
theorem resetStepClearsEveryRegister : Obligations.ResetStepClearsEveryRegister := by
  intro s rest hs
  exact ⟨_, step_of_script_cons hs, fun off => windowRead_resetRte off _, rfl, rfl, rfl, rfl, rfl, rfl, rfl, rfl, rfl,
    rfl, rfl, rfl⟩

/-- Settles O2. -/
theorem powerOnStateIsClear : Obligations.PowerOnStateIsClear :=
  ⟨windowRead_reset, rfl, rfl, rfl, rfl, rfl, rfl⟩

/-- Settles O41: each field of the word is compared bit by bit. -/
theorem statusWordLayout : Obligations.StatusWordLayout := by
  intro st
  refine ⟨?busy, ?done, ?ok, ?low, ?err, ?phase, ?high, rfl, rfl, rfl, rfl, rfl, rfl⟩
  case busy | done | ok => simp [statusWord]
  case low | err | phase | high =>
    unfold statusWord
    ext i hi
    interval_cases i <;> simp

/-! ### What acceptance can do (30_encoding.md R76 to R79) -/

/-- A word that decodes is the word of its command. -/
theorem encode_of_decodeWord {c : Word} {i : Instr} (h : decodeWord c = .ok i) : encode i = c := by
  unfold decodeWord at h
  split_ifs at h with h0 h1
  obtain ⟨hop, haddr, hreg⟩ := (decodeOp_ok_iff _ _ _ _).mp h
  rw [encode_eq_fields, hop, haddr, hreg, encodeFields_of_fields c (not_not.mp h0) (not_not.mp h1)]

/-- The address check of R79 looks at ADDR[7] of the command. -/
theorem addrBit7_encode (i : Instr) : addrBit7 (encode i) = i.addr.getLsbD 7 := by
  rw [encode_eq_fields, addrBit7_encodeFields]

/-- A command that passes the address check is well formed (R79). -/
theorem wellFormed_of_addrBit7 {i : Instr} (h : addrBit7 (encode i) = false) : i.wellFormed = true := by
  simp only [Instr.wellFormed, addrLegal, ← addrBit7_encode, h, Bool.not_false, Bool.or_true]

/-- A command's body keeps a part of the state that neither the label, STATUS nor what its own opcode writes touches:
V for WRITE16, FVAL for FORCE, TEMPQ and TEMPF for DECODE. -/
theorem commandBody_keeps {α : Type} (f : State → α) (i : Instr) (s : State)
    (hGoto : ∀ l t, f (goto l t) = f t) (hFinish : ∀ e p t, f (finish e p t) = f t)
    (hV : opcodeOf i = 0x3#4 → ∀ w t, f { t with v := w } = f t)
    (hFval : opcodeOf i = 0x6#4 → ∀ w t, f { t with fval := w } = f t)
    (hSample : opcodeOf i = 0x7#4 → ∀ w t, f (setSample w t) = f t) : f (commandBody i s) = f s := by
  rcases commandBody_cases i s with ⟨-, -, e⟩ | ⟨-, -, ⟨-, l, -, -, -, -, e⟩ | ⟨hop, e⟩⟩ | ⟨-, hop, e⟩ | ⟨-, hop, e⟩
  · rw [e, hFinish]
  · rw [e, hGoto]
  · rw [e, hGoto, hV hop]
  · rw [e, hFinish, hFval hop]
  · rw [e, hFinish, hSample hop]

@[simp] theorem commandBody_cmd (i : Instr) (s : State) : (commandBody i s).cmd = s.cmd :=
  commandBody_keeps _ i s (fun _ _ => rfl) (fun _ _ _ => rfl) (fun _ _ _ => rfl) (fun _ _ _ => rfl) (fun _ _ _ => rfl)

@[simp] theorem commandBody_cmdl (i : Instr) (s : State) : (commandBody i s).cmdl = s.cmdl :=
  commandBody_keeps _ i s (fun _ _ => rfl) (fun _ _ _ => rfl) (fun _ _ _ => rfl) (fun _ _ _ => rfl) (fun _ _ _ => rfl)

@[simp] theorem commandBody_opd (i : Instr) (s : State) : (commandBody i s).opd = s.opd :=
  commandBody_keeps _ i s (fun _ _ => rfl) (fun _ _ _ => rfl) (fun _ _ _ => rfl) (fun _ _ _ => rfl) (fun _ _ _ => rfl)

@[simp] theorem commandBody_rdata (i : Instr) (s : State) : (commandBody i s).rdata = s.rdata :=
  commandBody_keeps _ i s (fun _ _ => rfl) (fun _ _ _ => rfl) (fun _ _ _ => rfl) (fun _ _ _ => rfl) (fun _ _ _ => rfl)

/-- FORCE alone writes FVAL at acceptance (R145). -/
theorem commandBody_fval {i : Instr} (h : opcodeOf i ≠ 0x6#4) (s : State) : (commandBody i s).fval = s.fval :=
  commandBody_keeps _ i s (fun _ _ => rfl) (fun _ _ _ => rfl) (fun _ _ _ => rfl) (fun h6 => absurd h6 h)
    (fun _ _ _ => rfl)

/-- DECODE alone writes the sample at acceptance (R182). -/
theorem commandBody_sample {i : Instr} (h : opcodeOf i ≠ 0x7#4) (s : State) :
    ((commandBody i s).tempq, (commandBody i s).tempf) = (s.tempq, s.tempf) :=
  commandBody_keeps (fun t => (t.tempq, t.tempf)) i s (fun _ _ => rfl) (fun _ _ _ => rfl) (fun _ _ _ => rfl)
    (fun _ _ _ => rfl) (fun h7 => absurd h7 h)

/-- The command of opcode 0x6. -/
theorem exists_force_of_opcodeOf {i : Instr} (h : opcodeOf i = 0x6#4) : ∃ addr reg, i = .force addr reg := by
  cases i with
  | force addr reg => exact ⟨addr, reg, rfl⟩
  | _ => cases h

/-- The command of opcode 0x7. -/
theorem exists_decode_of_opcodeOf {i : Instr} (h : opcodeOf i = 0x7#4) : ∃ addr reg, i = .decode addr reg := by
  cases i with
  | decode addr reg => exact ⟨addr, reg, rfl⟩
  | _ => cases h

/-- A completion without a phase records none (R201). -/
@[simp] theorem finishPhase_zero (e : ErrCode) (b : Bool) : finishPhase e b 0#2 = 0#2 :=
  ite_self _

/-- After acceptance a command is in progress, or it has completed without a phase (R37, R76). -/
theorem commandBody_status (i : Instr) (s : State) :
    (commandBody i s).status = s.status ∨
      ((commandBody i s).fsm = .idle ∧ ∃ e, (commandBody i s).status = statusFinished e 0#2) := by
  rcases commandBody_cases i s with ⟨-, -, e⟩ | ⟨-, -, ⟨-, l, -, -, -, -, e⟩ | ⟨-, e⟩⟩ | ⟨-, -, e⟩ | ⟨-, -, e⟩
  · exact .inr ⟨by simp [e], .badAddr, by simp [e]⟩
  · exact .inl (by simp [e])
  · exact .inl (by simp [e])
  · exact .inr ⟨by simp [e], .noErr, by simp [e]⟩
  · exact .inr ⟨by simp [e], .noErr, by simp [e]⟩

/-! ### What one engine step can do (10_state.md R33, 40_bus_primitive.md R105, R106) -/

/-! One equation of the engine step for each command whose label the sequencer holds. -/

theorem engineStep_idle {s : State} (d : Draw) (h : s.fsm = .idle) : engineStep d s = s := by
  simp only [engineStep, h]

theorem engineStep_probe {l : PbLabel} {s : State} (d : Draw) (h : s.fsm = .probe l) :
    engineStep d s = probeStep l d s := by
  simp only [engineStep, h]

theorem engineStep_read16 {l : RdLabel} {s : State} (d : Draw) (h : s.fsm = .read16 l) :
    engineStep d s = read16Step l d s := by
  simp only [engineStep, h]

theorem engineStep_write16 {l : WrLabel} {s : State} (d : Draw) (h : s.fsm = .write16 l) :
    engineStep d s = write16Step l d s := by
  simp only [engineStep, h]

theorem engineStep_configure {l : CfLabel} {s : State} (d : Draw) (h : s.fsm = .configure l) :
    engineStep d s = configureStep l d s := by
  simp only [engineStep, h]

theorem engineStep_readTemp {l : RdLabel} {s : State} (d : Draw) (h : s.fsm = .readTemp l) :
    engineStep d s = readTempStep l d s := by
  simp only [engineStep, h]

/-- `t` is `s` after the primitive `p`: only the bus's side and the byte latch HI may differ. -/
def OnBus (p : Prim) (s t : State) : Prop :=
  ∃ held hi, t = { s with busLog := s.busLog ++ [p], busHeld := held, hi := hi }

/-! Each primitive leaves all but the bus's side and HI as it is. -/

theorem onBus_tBegin (s : State) : OnBus (.tBegin (busAddr s.cmdl)) s (tBegin s) := ⟨_, _, rfl⟩

theorem onBus_tWrite (b : Byte) (s : State) : OnBus (.tWrite b) s (tWrite b s) := ⟨_, _, rfl⟩

theorem onBus_tEnd (r a : Bool) (s : State) : OnBus (.tEnd r a) s (tEnd r a s) := ⟨_, _, rfl⟩

theorem onBus_tRequest (n : Fin 3) (s : State) :
    OnBus (.tRequest (busAddr s.cmdl) 2 n) s (tRequest n s) := ⟨_, _, rfl⟩

theorem onBus_tRead_hi (b : Byte) (s : State) : OnBus (.tRead b) s { tRead b s with hi := b } := ⟨_, _, rfl⟩

/-- The order of the labels of a register read (R105). -/
inductive RdNext : RdLabel → RdLabel → Prop where
  | rd1 : RdNext .rd1 .rd2
  | rd2 : RdNext .rd2 .rd3
  | rd3 : RdNext .rd3 .rd4
  | rd4 : RdNext .rd4 .rd5
  | rd5 : RdNext .rd5 .rd6

/-- The order of the labels of a register write (R106). -/
inductive WrNext : WrLabel → WrLabel → Prop where
  | wr1 : WrNext .wr1 .wr2
  | wr2 : WrNext .wr2 .wr3
  | wr3 : WrNext .wr3 .wr4
  | wr4 : WrNext .wr4 .wr5

/-- The label that follows another in the same sub-sequence (R32). -/
inductive Follows : Fsm → Fsm → Prop where
  | probe : Follows (.probe .pb1) (.probe .pb2)
  | read16 {k l} (h : RdNext k l) : Follows (.read16 k) (.read16 l)
  | write16 {k l} (h : WrNext k l) : Follows (.write16 k) (.write16 l)
  | initialRead {k l} (h : RdNext k l) : Follows (.configure (.r1 k)) (.configure (.r1 l))
  | write {k l} (h : WrNext k l) : Follows (.configure (.wr k)) (.configure (.wr l))
  | readback {k l} (h : RdNext k l) : Follows (.configure (.r2 k)) (.configure (.r2 l))
  | readTemp {k l} (h : RdNext k l) : Follows (.readTemp k) (.readTemp l)

/-- What one engine step makes of `s`, the transport answering with `d`: nothing in IDLE; a primitive and then the next
label of the sub-sequence or the end of the command; at the last label of a sub-sequence the command's own part, or
the settling wait. -/
inductive EngineOutcome (d : Draw) (s : State) : State → Prop where
  /-- No step is enabled (R33). -/
  | idle (h : s.fsm = .idle) : EngineOutcome d s s
  /-- A primitive, and the next label; the bus is held where a request is to come (R36). -/
  | move {p u l} (hbus : OnBus p s u) (hl : Follows s.fsm l) (hheld : waitsRequest l = true → u.busHeld = true) :
      EngineOutcome d s (goto l u)
  /-- A primitive, and the command ends with nothing received; CONFIGURE names its phase (R201, R203). -/
  | stop {p u e ph} (hbus : OnBus p s u) (hi : s.fsm ≠ .idle) (hs : s.fsm ≠ .configure .settle) (he : e ≠ .verify)
      (hph : fsmOpcode s.fsm = some 0x4#4 → ph ≠ 0#2) : EngineOutcome d s (finish e ph u)
  /-- READ16 has its value (R110). -/
  | read16 (h : s.fsm = .read16 .rd6) :
      EngineOutcome d s (read16Value (joinBytes s.hi d.byte) (tRead d.byte s))
  /-- READTEMP has its value (R180). -/
  | readTemp (h : s.fsm = .readTemp .rd6) :
      EngineOutcome d s (readTempValue (joinBytes s.hi d.byte) (tRead d.byte s))
  /-- CONFIGURE has its initial value (R150). -/
  | forced (h : s.fsm = .configure (.r1 .rd6)) :
      EngineOutcome d s (configureValue (joinBytes s.hi d.byte) (tRead d.byte s))
  /-- CONFIGURE's write is acknowledged (R146). -/
  | written (h : s.fsm = .configure (.wr .wr5)) : EngineOutcome d s (configureWritten (tEnd true true s))
  /-- The settling wait (R146). -/
  | settled (h : s.fsm = .configure .settle) : EngineOutcome d s (settleStep s)
  /-- CONFIGURE has its readback and takes the verify decision (R147). -/
  | readback (h : s.fsm = .configure (.r2 .rd6)) :
      EngineOutcome d s (configureReadback (joinBytes s.hi d.byte) (tRead d.byte s))

/-- A step of a register read: the next label, an end without a value, or the value in the caller's hands (R105). -/
theorem rdStep_outcome {r : Byte} {ph : BitVec 2} {lab : RdLabel → Fsm} {onValue : Half → State → State}
    {l : RdLabel} {d : Draw} {s : State} (hs : s.fsm = lab l) (hfol : ∀ {k m}, RdNext k m → Follows (lab k) (lab m))
    (hwait : ∀ k, waitsRequest (lab k) = true → k = .rd4) (hidle : lab l ≠ .idle) (hset : lab l ≠ .configure .settle)
    (hph : fsmOpcode (lab l) = some 0x4#4 → ph ≠ 0#2)
    (hval : l = .rd6 → EngineOutcome d s (onValue (joinBytes s.hi d.byte) (tRead d.byte s))) :
    EngineOutcome d s (rdStep r ph lab onValue l d s) := by
  rw [← hs] at hidle hset hph
  have hmove : ∀ {p u k}, OnBus p s u → RdNext l k → (k = .rd4 → u.busHeld = true) →
      EngineOutcome d s (goto (lab k) u) := fun hb hn hh =>
    .move hb (hs ▸ hfol hn) (fun hw => hh (hwait _ hw))
  cases l with
  | rd1 => exact hmove (onBus_tBegin s) .rd1 nofun
  | rd2 => exact hmove (onBus_tWrite r s) .rd2 nofun
  | rd3 =>
    cases ha : d.ack with
    | true =>
      simp only [rdStep, ha, if_true]
      exact hmove (onBus_tEnd false true s) .rd3 (fun _ => rfl)
    | false =>
      simp only [rdStep, ha, Bool.false_eq_true, if_false]
      exact .stop (onBus_tEnd false false s) hidle hset nofun hph
  | rd4 =>
    simp only [rdStep]
    split
    · exact hmove (onBus_tRequest d.n s) .rd4 nofun
    · exact .stop (onBus_tRequest d.n s) hidle hset nofun hph
  | rd5 => exact hmove (onBus_tRead_hi d.byte s) .rd5 nofun
  | rd6 => exact hval rfl

/-- A step of a register write: the next label, an end without an acknowledge, or the caller's part (R106). -/
theorem wrStep_outcome {r : Byte} {ph : BitVec 2} {lab : WrLabel → Fsm} {onAck : State → State}
    {l : WrLabel} {d : Draw} {s : State} (hs : s.fsm = lab l) (hfol : ∀ {k m}, WrNext k m → Follows (lab k) (lab m))
    (hwait : ∀ k, waitsRequest (lab k) = false) (hidle : lab l ≠ .idle) (hset : lab l ≠ .configure .settle)
    (hph : fsmOpcode (lab l) = some 0x4#4 → ph ≠ 0#2)
    (hack : l = .wr5 → EngineOutcome d s (onAck (tEnd true true s))) :
    EngineOutcome d s (wrStep r ph lab onAck l d s) := by
  rw [← hs] at hidle hset hph
  have hmove : ∀ {p u k}, OnBus p s u → WrNext l k → EngineOutcome d s (goto (lab k) u) := fun hb hn =>
    .move hb (hs ▸ hfol hn) (fun hw => absurd hw (by simp [hwait]))
  cases l with
  | wr1 => exact hmove (onBus_tBegin s) .wr1
  | wr2 => exact hmove (onBus_tWrite r s) .wr2
  | wr3 => exact hmove (onBus_tWrite _ s) .wr3
  | wr4 => exact hmove (onBus_tWrite _ s) .wr4
  | wr5 =>
    cases ha : d.ack with
    | true =>
      simp only [wrStep, ha, if_true]
      exact hack rfl
    | false =>
      simp only [wrStep, ha, Bool.false_eq_true, if_false]
      exact .stop (onBus_tEnd true false s) hidle hset nofun hph

/-- A request waits at RD.4 of a read alone (R36). -/
theorem eq_rd4_of_waitsRequest {lab : RdLabel → Fsm}
    (h : ∀ k, waitsRequest (lab k) = decide (k = .rd4)) (k : RdLabel) (hw : waitsRequest (lab k) = true) : k = .rd4 :=
  of_decide_eq_true (h k ▸ hw)

/-- The engine's step by its label. -/
theorem engineStep_outcome (d : Draw) (s : State) : EngineOutcome d s (engineStep d s) := by
  cases hs : s.fsm with
  | idle => exact (engineStep_idle d hs).symm ▸ .idle hs
  | probe l =>
    rw [engineStep_probe d hs]
    cases l with
    | pb1 => exact .move (onBus_tBegin s) (hs ▸ .probe) nofun
    | pb2 =>
      refine .stop (onBus_tEnd true d.ack s) (by simp [hs]) (by simp [hs]) ?_ (by simp [hs, fsmOpcode])
      cases d.ack <;> exact nofun
  | read16 l =>
    rw [engineStep_read16 d hs]
    exact rdStep_outcome (lab := .read16) hs .read16 (eq_rd4_of_waitsRequest fun k => by cases k <;> rfl) nofun nofun nofun
      (fun hl => .read16 (hl ▸ hs))
  | write16 l =>
    rw [engineStep_write16 d hs]
    refine wrStep_outcome (lab := .write16) hs .write16 (fun _ => rfl) nofun nofun nofun (fun hl => ?_)
    exact .stop (onBus_tEnd true true s) (by simp [hs]) (by simp [hs]) nofun (by simp [hs, fsmOpcode])
  | configure l =>
    rw [engineStep_configure d hs]
    cases l with
    | r1 l =>
      exact rdStep_outcome (lab := fun l => .configure (.r1 l)) hs .initialRead
        (eq_rd4_of_waitsRequest fun k => by cases k <;> rfl) nofun nofun nofun (fun hl => .forced (hl ▸ hs))
    | wr l =>
      exact wrStep_outcome (lab := fun l => .configure (.wr l)) hs .write (fun _ => rfl) nofun nofun nofun
        (fun hl => .written (hl ▸ hs))
    | settle => exact .settled hs
    | r2 l =>
      exact rdStep_outcome (lab := fun l => .configure (.r2 l)) hs .readback
        (eq_rd4_of_waitsRequest fun k => by cases k <;> rfl) nofun nofun nofun (fun hl => .readback (hl ▸ hs))
  | readTemp l =>
    rw [engineStep_readTemp d hs]
    exact rdStep_outcome (lab := .readTemp) hs .readTemp (eq_rd4_of_waitsRequest fun k => by cases k <;> rfl) nofun nofun
      nofun (fun hl => .readTemp (hl ▸ hs))

/-! ### What one step of the whole can do (00_scope.md R13) -/

/-- What the acceptance of a write of `c` to CMD makes of `u`: the command's body after the word is latched, or ILLEGAL
(R76, R78). -/
inductive Accepts (c : Word) (u : State) : State → Prop where
  | command {i} (h : decodeWord c = .ok i) : Accepts c u (commandBody i (latchCommand c u))
  | illegal {e} (h : decodeWord c = .error e) : Accepts c u (finish .illegal 0#2 (latchCommand c u))

/-- Acceptance keeps RDATA (R27). -/
theorem Accepts.rdata {c : Word} {u v : State} (hv : Accepts c u v) : v.rdata = u.rdata := by
  cases hv with
  | command => exact commandBody_rdata _ _
  | illegal => rfl

/-- An acceptance that changes the sample is that of a DECODE word (R182). -/
theorem Accepts.sample {c : Word} {u v : State} (hv : Accepts c u v) (hne : (v.tempq, v.tempf) ≠ (u.tempq, u.tempf)) :
    ∃ addr reg, c = encode (.decode addr reg) ∧ v.cmd = c ∧ v.opd = u.wdata ∧ v.tempq = sampleWord u.wdata ∧
      v.tempf = sampleFloat u.wdata := by
  cases hv with
  | illegal => exact absurd rfl hne
  | command hd =>
    obtain ⟨addr, reg, rfl⟩ := exists_decode_of_opcodeOf (by_contra fun hop => hne (commandBody_sample hop _))
    exact ⟨addr, reg, (encode_of_decodeWord hd).symm, rfl, rfl, rfl, rfl⟩

/-- An acceptance that changes FVAL is that of a FORCE word (R145). -/
theorem Accepts.fval {c : Word} {u v : State} (hv : Accepts c u v) (hne : v.fval ≠ u.fval) :
    ∃ addr reg, c = encode (.force addr reg) ∧ v.cmd = c ∧ v.opd = u.wdata ∧
      v.fval = force12 Config.modeParams u.wdata := by
  cases hv with
  | illegal => exact absurd rfl hne
  | command hd =>
    obtain ⟨addr, reg, rfl⟩ := exists_force_of_opcodeOf (by_contra fun hop => hne (commandBody_fval hop _))
    exact ⟨addr, reg, (encode_of_decodeWord hd).symm, rfl, rfl, rfl⟩

/-- Acceptance latches the word and the operand, and leaves STATUS in progress or completed without a phase (R37, R76). -/
theorem Accepts.status {c : Word} {u v : State} (hv : Accepts c u v) :
    v.cmd = c ∧ v.cmdl = c ∧ v.opd = u.wdata ∧
      (v.status = statusInProgress ∨ (v.fsm = .idle ∧ ∃ e, v.status = statusFinished e 0#2)) := by
  cases hv with
  | illegal => exact ⟨rfl, rfl, rfl, .inr ⟨rfl, .illegal, rfl⟩⟩
  | command => exact ⟨commandBody_cmd _ _, commandBody_cmdl _ _, commandBody_opd _ _, commandBody_status _ _⟩

/-- The engine is the agent of the step from `s`, the transport answers with `d`, and `u` is what the engine finds. -/
def EngineTurn (d : Draw) (s u : State) : Prop :=
  (∃ rest, s.script = .engine d :: rest ∧ u = { s with script := rest }) ∨
    (s.script = [] ∧ s.fsm ≠ .idle ∧ u = { s with drawn := s.drawn + 1 })

/-- An engine step is a step of `engineStep` on what the engine finds. -/
theorem tookEngineStep_iff {s t : State} : tookEngineStep s t ↔ ∃ d u, EngineTurn d s u ∧ t = engineStep d u := by
  constructor
  · rintro (⟨d, rest, hs, ht⟩ | ⟨hs, hi, d, ht⟩)
    · exact ⟨d, _, .inl ⟨rest, hs, rfl⟩, ht⟩
    · exact ⟨d, _, .inr ⟨hs, hi, rfl⟩, ht⟩
  · rintro ⟨d, u, ⟨rest, hs, rfl⟩ | ⟨hs, hi, rfl⟩, ht⟩
    · exact .inl ⟨d, rest, hs, ht⟩
    · exact .inr ⟨hs, hi, d, ht⟩

/-- The engine finds the RTE as it is. -/
theorem EngineTurn.sameRte {d : Draw} {s u : State} (h : EngineTurn d s u) : sameRte s u := by
  obtain ⟨rest, -, rfl⟩ | ⟨-, -, rfl⟩ := h
  · exact ⟨_, _, _, _, rfl⟩
  · exact ⟨_, _, _, _, rfl⟩

/-- The engine's turn is an engine step and nothing else. -/
theorem EngineTurn.tookEngineStep {d : Draw} {s u : State} (h : EngineTurn d s u) :
    tookEngineStep s (engineStep d u) :=
  tookEngineStep_iff.mpr ⟨d, u, h, rfl⟩

/-- What one step makes of the RTE, one case for each thing an agent can do to it. -/
inductive StepOutcome (s t : State) : Prop where
  /-- The agents outside move among themselves, or the RTE ignores what they do. -/
  | quiet (h : sameRte s t)
  /-- The host stores WDATA. -/
  | wdata {u w} (hu : sameRte s u) (ht : sameRte (writeWdata w u) t)
  /-- The host's write to CMD is accepted. -/
  | accept {c u v} (hc : writesCmd s c) (hu : sameRte s u) (hb : s.status.busy = false) (hv : Accepts c u v)
      (ht : sameRte v t)
  /-- The engine takes its step. -/
  | engine {d u} (hu : EngineTurn d s u) (ht : t = engineStep d u)
  /-- `rst` is the next event. -/
  | reset {u} (hr : s.script.head? = some .reset) (hu : sameRte s u) (ht : t = resetRte u)

theorem sameRte.trans {s t u : State} (h : sameRte s t) (h' : sameRte t u) : sameRte s u := by
  obtain ⟨_, _, _, _, rfl⟩ := h
  obtain ⟨_, _, _, _, rfl⟩ := h'
  exact ⟨_, _, _, _, rfl⟩

/-- The agents' bookkeeping does not reach STATUS. -/
theorem sameRte.status_eq {s t : State} (h : sameRte s t) : t.status = s.status := by
  obtain ⟨_, _, _, _, rfl⟩ := h
  rfl

/-- Every step has one of these outcomes: `step_cases`, with a CMD write that a busy RTE ignores among the quiet ones. -/
theorem step_outcome {s t : State} (h : step s = .next t) : StepOutcome s t := by
  obtain ⟨u, hu, ht | ⟨c, i, v, hc, hd, he, ht⟩ | ⟨c, e, hc, hd, ht⟩ | ⟨w, ht⟩ | ⟨he, -⟩ | ⟨hr, ht⟩⟩ := step_cases h
  · exact .quiet (hu.trans ht)
  · obtain ⟨-, rfl⟩ | ⟨hb, rfl⟩ := exec_cases he
    · exact .quiet (hu.trans ht)
    · rw [encode_of_decodeWord hd] at ht
      exact .accept hc hu (hu.status_eq ▸ hb) (.command hd) ht
  · obtain ⟨-, e⟩ | ⟨hb, e⟩ := acceptIllegal_cases c u
    · exact .quiet (hu.trans (e ▸ ht))
    · exact .accept hc hu (hu.status_eq ▸ hb) (.illegal hd) (e ▸ ht)
  · exact .wdata hu ht
  · obtain ⟨d, u, hu, rfl⟩ := tookEngineStep_iff.mp he
    exact .engine hu rfl
  · exact .reset hr hu ht

/-- A part of the RTE that no host access but an accepted command reaches changes only by that, by the engine, or by
reset. -/
theorem step_changes {α : Type} (f : State → α) {s t : State} (h : step s = .next t) (hne : f t ≠ f s)
    (hsame : ∀ s u, sameRte s u → f u = f s) (hwdata : ∀ w u, f (writeWdata w u) = f u) :
    s.script.head? = some .reset ∨ (∃ d u, EngineTurn d s u ∧ t = engineStep d u) ∨
      ∃ c u v, writesCmd s c ∧ sameRte s u ∧ s.status.busy = false ∧ Accepts c u v ∧ sameRte v t := by
  cases step_outcome h with
  | quiet h => exact absurd (hsame _ _ h) hne
  | wdata hu ht => exact absurd (by rw [hsame _ _ ht, hwdata, hsame _ _ hu]) hne
  | accept hc hu hb hv ht => exact .inr (.inr ⟨_, _, _, hc, hu, hb, hv, ht⟩)
  | engine hu ht => exact .inr (.inl ⟨_, _, hu, ht⟩)
  | reset hr hu ht => exact .inl hr

/-! ### What the engine issues, writes and keeps -/

/-- A running engine outside the settling wait issues one primitive (R33, R100). -/
theorem EngineOutcome.issues {d : Draw} {s t : State} (ho : EngineOutcome d s t) (hi : s.fsm ≠ .idle)
    (hs : s.fsm ≠ .configure .settle) : ∃ p, t.busLog = s.busLog ++ [p] := by
  cases ho with
  | idle h => exact absurd h hi
  | move hbus => obtain ⟨_, _, rfl⟩ := hbus; exact ⟨_, rfl⟩
  | stop hbus => obtain ⟨_, _, rfl⟩ := hbus; exact ⟨_, rfl⟩
  | settled h => exact absurd h hs
  | _ => exact ⟨_, rfl⟩

/-- Settles O43. -/
theorem engineStepIssuesOnePrimitive : Obligations.EngineStepIssuesOnePrimitive := by
  intro d s
  refine ⟨(engineStep_outcome d s).issues, ?_⟩
  rintro (h | h)
  · simp only [engineStep, h]
  · simp only [engineStep, h, configureStep, settleStep, goto_busLog, settleClocks_busLog]

/-- Settles O45: no operation of the engine writes one of these parts. -/
theorem engineFrame : Obligations.EngineFrame := by
  intro d s
  have hkeeps := engineStep_keeps
    (fun t => (t.cmd, t.cmdl, t.opd, t.wdata, t.reads, t.script, t.drawn, t.host)) d s (fun _ _ => rfl)
    (fun _ _ _ => rfl) (fun _ _ => rfl) (fun _ _ _ => rfl) (fun _ _ => rfl) (fun _ _ => rfl) (fun _ _ => rfl)
    (fun _ _ => rfl) (fun _ _ _ _ => rfl) (fun _ _ => rfl)
  simpa only [Prod.mk.injEq] using hkeeps

/-- The engine writes RDATA at the last label of a register read, with HI and the byte it receives there (R104). -/
theorem EngineOutcome.rdata {d : Draw} {s t : State} (ho : EngineOutcome d s t) (hne : t.rdata ≠ s.rdata) :
    (s.fsm = .read16 .rd6 ∨ s.fsm = .readTemp .rd6 ∨ s.fsm = .configure (.r1 .rd6) ∨ s.fsm = .configure (.r2 .rd6)) ∧
      t.rdata = s.hi ++ d.byte ∧ t.busLog = s.busLog ++ [.tRead d.byte] := by
  cases ho with
  | move hbus => obtain ⟨_, _, rfl⟩ := hbus; exact absurd rfl hne
  | stop hbus => obtain ⟨_, _, rfl⟩ := hbus; exact absurd rfl hne
  | read16 h => exact ⟨.inl h, rfl, rfl⟩
  | readTemp h => exact ⟨.inr (.inl h), rfl, rfl⟩
  | forced h => exact ⟨.inr (.inr (.inl h)), rfl, rfl⟩
  | readback h => exact ⟨.inr (.inr (.inr h)), rfl, rfl⟩
  | _ => exact absurd rfl hne

/-- The engine writes the sample at the end of READTEMP's read, from the word RDATA takes there (R180). -/
theorem EngineOutcome.sample {d : Draw} {s t : State} (ho : EngineOutcome d s t)
    (hne : (t.tempq, t.tempf) ≠ (s.tempq, s.tempf)) :
    s.fsm = .readTemp .rd6 ∧ t.tempq = sampleWord t.rdata ∧ t.tempf = sampleFloat t.rdata := by
  cases ho with
  | move hbus => obtain ⟨_, _, rfl⟩ := hbus; exact absurd rfl hne
  | stop hbus => obtain ⟨_, _, rfl⟩ := hbus; exact absurd rfl hne
  | readTemp h => exact ⟨h, rfl, rfl⟩
  | _ => exact absurd rfl hne

/-- The engine writes FVAL at the end of CONFIGURE's initial read, from the word RDATA takes there (R150). -/
theorem EngineOutcome.fval {d : Draw} {s t : State} (ho : EngineOutcome d s t) (hne : t.fval ≠ s.fval) :
    s.fsm = .configure (.r1 .rd6) ∧ t.fval = force12 Config.modeParams t.rdata := by
  cases ho with
  | move hbus => obtain ⟨_, _, rfl⟩ := hbus; exact absurd rfl hne
  | stop hbus => obtain ⟨_, _, rfl⟩ := hbus; exact absurd rfl hne
  | forced h => exact ⟨h, rfl⟩
  | _ => exact absurd rfl hne

/-- No sub-sequence goes on to IDLE. -/
theorem Follows.ne_idle {k l : Fsm} (h : Follows k l) : l ≠ .idle := by
  cases h <;> exact nofun

/-- A step of a running engine goes on with STATUS as it is, or ends the command with a completed one (R37, R203). -/
theorem EngineOutcome.status {d : Draw} {s t : State} (ho : EngineOutcome d s t) (hi : s.fsm ≠ .idle) :
    (t.fsm ≠ .idle ∧ t.status = s.status) ∨ (t.fsm = .idle ∧ ∃ e ph, t.status = statusFinished e ph) := by
  cases ho with
  | idle h => exact absurd h hi
  | move hbus hl => obtain ⟨_, _, rfl⟩ := hbus; exact .inl ⟨hl.ne_idle, rfl⟩
  | stop => exact .inr ⟨rfl, _, _, rfl⟩
  | read16 => exact .inr ⟨rfl, _, _, rfl⟩
  | readTemp => exact .inr ⟨rfl, _, _, rfl⟩
  | forced => exact .inl ⟨nofun, rfl⟩
  | written => exact .inl ⟨nofun, rfl⟩
  | settled => exact .inl ⟨nofun, rfl⟩
  | readback => exact .inr ⟨rfl, _, _, rfl⟩

/-! ### Which step changes RDATA, the sample, FVAL and STATUS -/

/-- Settles O46: acceptance keeps RDATA, so the step is the engine's. -/
theorem rdataChangesOnlyAfterARead : Obligations.RdataChangesOnlyAfterARead := by
  intro s t h hne
  obtain hr | ⟨d, u, hu, rfl⟩ | ⟨c, u, v, -, hu, -, hv, ht⟩ := step_changes State.rdata h hne
    (by rintro s u ⟨_, _, _, _, rfl⟩; rfl) (fun _ _ => rfl)
  · exact .inl hr
  · have htook := hu.tookEngineStep
    obtain ⟨rest, hs, rfl⟩ | ⟨hs, -, rfl⟩ := hu
    · obtain ⟨hl, hval, hlog⟩ := (engineStep_outcome d _).rdata hne
      exact .inr ⟨hl, htook, d, hval, hlog, .inl ⟨rest, hs, rfl⟩⟩
    · obtain ⟨hl, hval, hlog⟩ := (engineStep_outcome d _).rdata hne
      exact .inr ⟨hl, htook, d, hval, hlog, .inr ⟨hs, rfl⟩⟩
  · obtain ⟨_, _, _, _, rfl⟩ := hu
    obtain ⟨_, _, _, _, rfl⟩ := ht
    exact absurd hv.rdata hne

/-- Settles O47: of the commands DECODE alone writes the sample at acceptance, of the engine's labels READTEMP's last. -/
theorem temperatureChangesOnlyBySample : Obligations.TemperatureChangesOnlyBySample := by
  intro s t h hor
  have hne : (t.tempq, t.tempf) ≠ (s.tempq, s.tempf) :=
    fun he => hor.elim (fun hq => hq (congrArg Prod.fst he)) (fun hf => hf (congrArg Prod.snd he))
  obtain hr | ⟨d, u, hu, rfl⟩ | ⟨c, u, v, hc, hu, hb, hv, ht⟩ := step_changes (fun t => (t.tempq, t.tempf)) h hne
    (by rintro s u ⟨_, _, _, _, rfl⟩; rfl) (fun _ _ => rfl)
  · exact .inl hr
  · have htook := hu.tookEngineStep
    obtain ⟨_, _, _, _, rfl⟩ := hu.sameRte
    obtain ⟨hl, hsample⟩ := (engineStep_outcome d _).sample hne
    exact .inr (.inl ⟨htook, hl, hsample⟩)
  · obtain ⟨_, _, _, _, rfl⟩ := hu
    obtain ⟨_, _, _, _, rfl⟩ := ht
    obtain ⟨addr, reg, rfl, hval⟩ := hv.sample hne
    exact .inr (.inr ⟨addr, reg, hc, hb, hval⟩)

/-- Settles O48: of the commands FORCE alone writes FVAL at acceptance, of the engine's labels the last of CONFIGURE's
initial read. -/
theorem fvalChangesOnlyByForcing : Obligations.FvalChangesOnlyByForcing := by
  intro s t h hne
  obtain hr | ⟨d, u, hu, rfl⟩ | ⟨c, u, v, hc, hu, hb, hv, ht⟩ := step_changes State.fval h hne
    (by rintro s u ⟨_, _, _, _, rfl⟩; rfl) (fun _ _ => rfl)
  · exact .inl hr
  · have htook := hu.tookEngineStep
    obtain ⟨_, _, _, _, rfl⟩ := hu.sameRte
    obtain ⟨hl, hval⟩ := (engineStep_outcome d _).fval hne
    exact .inr (.inl ⟨htook, hl, hval⟩)
  · obtain ⟨_, _, _, _, rfl⟩ := hu
    obtain ⟨_, _, _, _, rfl⟩ := ht
    obtain ⟨addr, reg, rfl, hval⟩ := hv.fval hne
    exact .inr (.inr ⟨addr, reg, hc, hb, hval⟩)

/-- Settles O49. -/
theorem statusChangesOnlyAtAcceptanceAndFinish : Obligations.StatusChangesOnlyAtAcceptanceAndFinish := by
  intro s t h hne
  obtain hr | ⟨d, u, hu, rfl⟩ | ⟨c, u, v, hc, hu, hb, hv, ht⟩ := step_changes State.status h hne
    (fun _ _ hu => hu.status_eq) (fun _ _ => rfl)
  · exact .inl hr
  · have htook := hu.tookEngineStep
    have hrun : u.fsm ≠ .idle := fun hi => hne (by simpa only [engineStep, hi] using hu.sameRte.status_eq)
    have hends := (engineStep_outcome d u).status hrun
    obtain ⟨_, _, _, _, rfl⟩ := hu.sameRte
    obtain ⟨-, heq⟩ | hend := hends
    · exact absurd heq hne
    · exact .inr (.inr ⟨htook, hrun, hend⟩)
  · obtain ⟨_, _, _, _, rfl⟩ := hu
    obtain ⟨_, _, _, _, rfl⟩ := ht
    exact .inr (.inl ⟨c, hc, hb, hv.status⟩)

/-! ### Runs of the engine -/

/-- A step of a register read does not look at WDATA, where the caller's part does not. -/
theorem rdStep_wdata (x : Half) {r : Byte} {ph : BitVec 2} {lab : RdLabel → Fsm} {onValue : Half → State → State}
    (hval : ∀ w t, onValue w { t with wdata := x } = { onValue w t with wdata := x }) (l : RdLabel) (d : Draw) (s : State) :
    rdStep r ph lab onValue l d { s with wdata := x } = { rdStep r ph lab onValue l d s with wdata := x } := by
  cases l with
  | rd3 => simp only [rdStep]; split <;> rfl
  | rd4 => simp only [rdStep]; split <;> rfl
  | rd6 => exact hval _ (tRead d.byte s)
  | _ => rfl

/-- A step of a register write does not look at WDATA, where the caller's part does not. -/
theorem wrStep_wdata (x : Half) {r : Byte} {ph : BitVec 2} {lab : WrLabel → Fsm} {onAck : State → State}
    (hack : ∀ t, onAck { t with wdata := x } = { onAck t with wdata := x }) (l : WrLabel) (d : Draw) (s : State) :
    wrStep r ph lab onAck l d { s with wdata := x } = { wrStep r ph lab onAck l d s with wdata := x } := by
  cases l with
  | wr5 =>
    simp only [wrStep]
    split
    · exact hack (tEnd true d.ack s)
    · rfl
  | _ => rfl

/-- A step of CONFIGURE does not look at WDATA. -/
theorem configureStep_wdata (l : CfLabel) (d : Draw) (s : State) (x : Half) :
    configureStep l d { s with wdata := x } = { configureStep l d s with wdata := x } := by
  simp only [configureStep]
  cases l with
  | r1 l => exact rdStep_wdata x (fun _ _ => rfl) l d s
  | wr l => exact wrStep_wdata x (fun _ => rfl) l d s
  | settle => rfl
  | r2 l => exact rdStep_wdata x (fun _ _ => rfl) l d s

/-- An engine step does not look at WDATA (R34). -/
theorem engineStep_wdata (d : Draw) (s : State) (x : Half) :
    engineStep d { s with wdata := x } = { engineStep d s with wdata := x } := by
  obtain ⟨_, _, _, _, _, _, _, fsm, _⟩ := s
  cases fsm with
  | idle => rfl
  | probe l => cases l <;> rfl
  | read16 l => exact rdStep_wdata x (onValue := read16Value) (fun _ _ => rfl) l d _
  | write16 l => exact wrStep_wdata x (onAck := finish .noErr 0#2) (fun _ => rfl) l d _
  | configure l => exact configureStep_wdata l d _ x
  | readTemp l => exact rdStep_wdata x (onValue := readTempValue) (fun _ _ => rfl) l d _

/-- Settles O51, by induction on the transport's answers. -/
theorem wdataWriteDoesNotDisturbACommand : Obligations.WdataWriteDoesNotDisturbACommand := by
  intro ds
  induction ds with
  | nil => exact fun _ _ => rfl
  | cons d ds ih =>
    intro s x
    rw [engineRun, engineStep_wdata, ih, engineRun]

/-- A run goes on after a first step that answers a next state. -/
theorem run_succ_of_step {k : Nat} {s t : State} (h : step s = .next t) :
    Host.Core.run core (k + 1) s = Host.Core.run core k t := by
  have hcore : core.step s = .next t := h
  simp only [Host.Core.run, hcore]

/-- Settles O13, by induction on the answers in the script; the engine leaves the rest of the script alone. -/
theorem scriptedStepsAreTheEngineRun : Obligations.ScriptedStepsAreTheEngineRun := by
  intro ds rest
  induction ds with
  | nil => rintro s rfl; rfl
  | cons d ds ih =>
    intro s hs
    have hstep : step s = .next (engineStep d { s with script := ds.map Event.engine ++ rest }) :=
      step_of_script_cons hs
    have hscript := congrArg State.script (engineStep_script d s (ds.map Event.engine ++ rest))
    rw [List.length_cons, run_succ_of_step hstep, ih _ hscript, ← engineStep_script, engineRun]

/-- Each label has at least one step left. -/
theorem stepsLeft_pos {s : State} (h : s.fsm ≠ .idle) : 0 < stepsLeft s := by
  unfold stepsLeft
  split
  case h_1 hs => exact absurd hs h
  case h_2 l _ => cases l <;> decide
  case h_3 l _ => cases l <;> decide
  case h_4 l _ => cases l <;> decide
  case h_8 l _ => cases l <;> decide
  case h_9 l _ => cases l <;> decide
  all_goals omega

/-- An idle engine has no step left. -/
theorem stepsLeft_idle {s : State} (h : s.fsm = .idle) : stepsLeft s = 0 := by
  simp only [stepsLeft, h]

/-- A register read counts its labels down (R105). -/
theorem RdNext.rdLeft_lt {k l : RdLabel} (h : RdNext k l) : rdLeft l < rdLeft k := by
  cases h <;> decide

/-- A register write counts its labels down (R106). -/
theorem WrNext.wrLeft_lt {k l : WrLabel} (h : WrNext k l) : wrLeft l < wrLeft k := by
  cases h <;> decide

/-- The next label of a sub-sequence has fewer steps left. -/
theorem Follows.stepsLeft_lt {s t : State} (h : Follows s.fsm t.fsm) : stepsLeft t < stepsLeft s := by
  unfold stepsLeft
  generalize s.fsm = k, t.fsm = l at h
  cases h with
  | probe => decide
  | read16 h => exact h.rdLeft_lt
  | write16 h => exact h.wrLeft_lt
  | initialRead h => have := h.rdLeft_lt; dsimp only; omega
  | write h => have := h.wrLeft_lt; dsimp only; omega
  | readback h => exact h.rdLeft_lt
  | readTemp h => exact h.rdLeft_lt

/-- Every step of a running engine leaves fewer steps (R32, R109). -/
theorem EngineOutcome.stepsLeft_lt {d : Draw} {s t : State} (ho : EngineOutcome d s t) (hi : s.fsm ≠ .idle) :
    stepsLeft t < stepsLeft s := by
  have hend : t.fsm = .idle → stepsLeft t < stepsLeft s := fun h => stepsLeft_idle h ▸ stepsLeft_pos hi
  cases ho with
  | idle h => exact absurd h hi
  | move _ hl => exact hl.stepsLeft_lt
  | stop => exact hend rfl
  | read16 => exact hend rfl
  | readTemp => exact hend rfl
  | forced h => simp [stepsLeft, h, configureValue, wrLeft, rdLeft]
  | written h => simp [stepsLeft, h, configureWritten, wrLeft]
  | settled h => simp [stepsLeft, h, settleStep, rdLeft]
  | readback => exact hend rfl

/-- An engine that takes as many steps as are left is idle. -/
theorem engineRun_fsm_idle {ds : List Draw} {s : State} (h : stepsLeft s ≤ ds.length) : (engineRun ds s).fsm = .idle := by
  induction ds generalizing s with
  | nil =>
    by_contra hi
    exact absurd (stepsLeft_pos (s := s) hi) (Nat.not_lt.mpr h)
  | cons d ds ih =>
    by_cases hi : s.fsm = .idle
    · rw [engineRun_idle _ _ hi, hi]
    · have hlt := (engineStep_outcome d s).stepsLeft_lt hi
      exact ih (by rw [List.length_cons] at h; omega)

/-- An engine run that ends its command leaves STATUS completed (R203). -/
theorem engineRun_status_finished {ds : List Draw} {s : State} (hi : s.fsm ≠ .idle) (hend : (engineRun ds s).fsm = .idle) :
    ∃ e ph, (engineRun ds s).status = statusFinished e ph := by
  induction ds generalizing s with
  | nil => exact absurd hend hi
  | cons d ds ih =>
    obtain ⟨hrun, -⟩ | ⟨hstop, hstatus⟩ := (engineStep_outcome d s).status hi
    · exact ih hrun hend
    · rwa [engineRun, engineRun_idle _ _ hstop]

/-- Settles O27: each step leaves fewer steps, and the step that ends the command completes STATUS. -/
theorem everyCommandCompletes : Obligations.EveryCommandCompletes := by
  intro s ds hinv hbusy hlen
  have hrun : s.fsm ≠ .idle := fun hi => by simp [hinv.idle_iff.mp hi] at hbusy
  have hend := engineRun_fsm_idle hlen
  obtain ⟨e, ph, hstatus⟩ := engineRun_status_finished hrun hend
  rw [hstatus]
  exact ⟨hend, rfl, rfl⟩

/-! ### The invariant -/

/-- TEMPQ is the sample in 32 bits (R28, R170). -/
theorem sampleWord_toInt (w : Half) : (sampleWord w).toInt = sampleInt w :=
  BitVec.toInt_signExtend_of_le (by decide)

/-- The low twelve bits of TEMPQ are the sample (R28). -/
theorem extractLsb'_sampleWord (w : Half) : (sampleWord w).extractLsb' 0 12 = sampleField w := by
  ext i hi
  have h32 : i < 32 := by omega
  rw [BitVec.getElem_extractLsb', sampleWord, BitVec.getLsbD_signExtend]
  simp [hi, h32]

/-- The clauses of the invariant that hold at every label: CMD is latched, and TEMPQ and TEMPF hold one sample. -/
structure Paired (s : State) : Prop where
  /-- CMD and CMDL are equal (R34). -/
  cmd_latched : s.cmd = s.cmdl
  /-- TEMPQ bits [31:12] equal bit 11 (R28). -/
  tempq_extended : s.tempq = (s.tempq.extractLsb' 0 12).signExtend 32
  /-- TEMPF encodes the same sample as TEMPQ (R29). -/
  temp_pair : s.tempf = f32 s.tempq.toInt

/-- SCNT as the label has it: loaded in the settling wait, else 0 (R35). -/
def settleCount (l : Fsm) : Nat := if l = .configure .settle then Config.settleCycles else 0

/-- The clauses of the invariant while a command runs. -/
structure Runs (s : State) : Prop where
  /-- STATUS is in progress (R26, R32). -/
  in_progress : s.status = statusInProgress
  /-- The sequence is that of the latched command, whose address is legal (R32, R79). -/
  runs_command : ∃ i, decodeWord s.cmdl = .ok i ∧ fsmOpcode s.fsm = some (opcodeOf i) ∧ i.wellFormed = true
  /-- SCNT is what the label asks for (R35, R146). -/
  settle_count : s.scnt = settleCount s.fsm
  /-- WRITE16 sends the operand latched at acceptance (R34, R111). -/
  write_operand : ∀ l, s.fsm = .write16 l → s.v = s.opd
  /-- CONFIGURE writes the forced value of its initial read (R30, R150). -/
  forced_value : afterForcing s.fsm = true → s.v = s.fval ∧ s.fval = force12 Config.modeParams s.rdata
  /-- The bus is held between an acknowledged select and its request (R36). -/
  bus_held : waitsRequest s.fsm = true → s.busHeld = true

theorem settleCount_le (l : Fsm) : settleCount l ≤ Config.settleCycles := by
  unfold settleCount
  split
  · exact Nat.le_refl _
  · exact Nat.zero_le _

theorem settleCount_settle : settleCount (.configure .settle) = Config.settleCycles := if_pos rfl

theorem settleCount_of_ne {l : Fsm} (h : l ≠ .configure .settle) : settleCount l = 0 := if_neg h

theorem RteInv.paired {s : State} (h : RteInv s) : Paired s := ⟨h.cmd_latched, h.tempq_extended, h.temp_pair⟩

/-- An idle engine has no label that asks for anything. -/
theorem ne_idle_of_fsmOpcode {l : Fsm} {op : BitVec 4} (h : fsmOpcode l = some op) : l ≠ .idle := by
  rintro rfl
  cases h

/-- A label other than IDLE is of a command. -/
theorem fsmOpcode_of_ne_idle {l : Fsm} (h : l ≠ .idle) : ∃ op, fsmOpcode l = some op := by
  cases l with
  | idle => exact absurd rfl h
  | _ => exact ⟨_, rfl⟩

/-- BUSY is 1 in progress alone (R26). -/
theorem StatusLegal.eq_inProgress {st : Status} (h : StatusLegal st) (hb : st.busy = true) : st = statusInProgress := by
  obtain rfl | h | ⟨h, -⟩ := h
  · cases hb
  · exact h
  · rw [h] at hb
    cases hb

/-- The invariant of a running command. -/
theorem RteInv.runs {s : State} (h : RteInv s) (hi : s.fsm ≠ .idle) : Runs s := by
  obtain ⟨op, hop⟩ := fsmOpcode_of_ne_idle hi
  obtain ⟨i, hdec, rfl, hwf⟩ := h.runs_command op hop
  refine ⟨h.status_legal.eq_inProgress ?_, ⟨i, hdec, hop, hwf⟩, ?_, h.write_operand, h.forced_value, h.bus_held⟩
  · exact Bool.eq_true_of_not_eq_false fun hb => hi (h.idle_iff.mpr hb)
  · by_cases hs : s.fsm = .configure .settle
    · rw [h.settle_loaded hs, hs, settleCount_settle]
    · rw [h.settle_only hs, settleCount_of_ne hs]

/-- A running command with these clauses is within the invariant: while STATUS is in progress it has no error and no
phase to account for. -/
theorem Runs.rteInv {s : State} (h : Runs s) (hp : Paired s) : RteInv s := by
  obtain ⟨hstatus, ⟨i, hdec, hop, hwf⟩, hscnt, hw, hf, hb⟩ := h
  have hne := ne_idle_of_fsmOpcode hop
  refine
    { hp with
      idle_iff := ⟨fun h => absurd h hne, fun h => ?_⟩
      status_legal := .inr (.inl hstatus)
      phase_zero := fun _ => by rw [hstatus]; rfl
      phase_named := fun h => ?_
      verify_phase := fun h => ?_
      runs_command := fun op h => ⟨i, hdec, Option.some.inj (hop.symm.trans h), hwf⟩
      settle_bound := hscnt ▸ settleCount_le _
      settle_loaded := fun h => by rw [hscnt, h, settleCount_settle]
      settle_only := fun h => by rw [hscnt, settleCount_of_ne h]
      write_operand := hw
      forced_value := hf
      bus_held := hb }
  all_goals
    rw [hstatus] at h
    cases h

/-- A bus or verify error of CONFIGURE records its phase (R201, R203). -/
theorem finishPhase_recorded {e : ErrCode} {b : Bool} (he : recordsPhase e = true) (hb : b = true) (ph : BitVec 2) :
    finishPhase e b ph = ph :=
  if_pos (Bool.and_eq_true_iff.mpr ⟨he, hb⟩)

/-- Every other completion records none (R201, R203). -/
theorem finishPhase_unrecorded {e : ErrCode} {b : Bool} (h : recordsPhase e = false ∨ b = false) (ph : BitVec 2) :
    finishPhase e b ph = 0#2 :=
  if_neg (by rwa [Bool.not_eq_true, Bool.and_eq_false_iff])

/-- A completed command is within the invariant, where the settling wait is over and PHASE is as R201 and R203 say. -/
theorem rteInv_finish {e : ErrCode} {ph : BitVec 2} {s : State} (hp : Paired (finish e ph s)) (hscnt : s.scnt = 0)
    (hph : recordsPhase e = true → isConfigure s = true → ph ≠ 0#2)
    (hv : e = .verify → isConfigure s = true ∧ ph = 3#2) : RteInv (finish e ph s) :=
  { hp with
    idle_iff := ⟨fun _ => rfl, fun _ => rfl⟩
    status_legal := .inr (.inr ⟨rfl, rfl, rfl⟩)
    phase_zero := fun h => finishPhase_unrecorded h ph
    phase_named := fun hr hc => (finishPhase_recorded hr hc ph).trans_ne (hph hr hc)
    verify_phase := fun (he : e = .verify) => by
      obtain ⟨hc, rfl⟩ := hv he
      exact ⟨hc, finishPhase_recorded (by rw [he]; rfl) hc _⟩
    runs_command := nofun
    settle_bound := hscnt ▸ Nat.zero_le _
    settle_loaded := nofun
    settle_only := fun _ => hscnt
    write_operand := nofun
    forced_value := nofun
    bus_held := nofun }

/-- A command that completes without a bus or verify error has no phase to account for. -/
theorem rteInv_finish_of_recordsPhase {e : ErrCode} {ph : BitVec 2} {s : State} (hp : Paired (finish e ph s))
    (hscnt : s.scnt = 0) (he : recordsPhase e = false) : RteInv (finish e ph s) :=
  rteInv_finish hp hscnt (fun h => Bool.noConfusion (he.symm.trans h)) (fun h => by rw [h] at he; cases he)

/-- A sample keeps TEMPQ and TEMPF paired, whatever the word (R28, R29). -/
theorem Paired.setSample {s : State} (h : Paired s) (w : Half) : Paired (setSample w s) where
  cmd_latched := h.cmd_latched
  tempq_extended := by rw [setSample_tempq, extractLsb'_sampleWord, sampleWord]
  temp_pair := by rw [setSample_tempq, setSample_tempf, sampleWord_toInt, sampleFloat]

/-- Acceptance keeps the pairs: it latches the word in both registers, and only DECODE writes the sample. -/
theorem Accepts.paired {c : Word} {s t : State} (ha : Accepts c s t) (h : Paired s) : Paired t := by
  have hl : Paired (latchCommand c s) := ⟨rfl, h.tempq_extended, h.temp_pair⟩
  cases ha with
  | illegal => exact { hl with }
  | @command i =>
    rcases commandBody_cases i (latchCommand c s) with
      ⟨-, -, e⟩ | ⟨-, -, ⟨-, l, -, -, -, -, e⟩ | ⟨-, e⟩⟩ | ⟨-, -, e⟩ | ⟨-, -, e⟩
    · exact e ▸ { hl with }
    · exact e ▸ { hl with }
    · exact e ▸ { hl with }
    · exact e ▸ { hl with }
    · exact e ▸ { hl.setSample _ with }

/-- The engine keeps the pairs: only READTEMP writes the sample. -/
theorem EngineOutcome.paired {d : Draw} {s t : State} (ho : EngineOutcome d s t) (h : Paired s) : Paired t := by
  cases ho with
  | move hbus => obtain ⟨_, _, rfl⟩ := hbus; exact { h with }
  | stop hbus => obtain ⟨_, _, rfl⟩ := hbus; exact { h with }
  | readTemp =>
    have hr : Paired { tRead d.byte s with rdata := joinBytes s.hi d.byte } := { h with }
    exact { hr.setSample _ with }
  | _ => exact { h with }

/-- The latched command is CONFIGURE where the sequence is CONFIGURE's. -/
theorem Runs.isConfigure_iff {s : State} (h : Runs s) : isConfigure s = true ↔ fsmOpcode s.fsm = some 0x4#4 := by
  obtain ⟨i, hdec, hop, -⟩ := h.runs_command
  rw [isConfigure, ← encode_of_decodeWord hdec, opField_encode, hop, beq_iff_eq, Option.some.injEq]

/-! #### Acceptance keeps the invariant -/

/-- The first label of a bus command whose address is legal. -/
theorem Runs.start {c : Word} {i : Instr} {l : Fsm} {s : State} (hdec : decodeWord c = .ok i) (hcmdl : s.cmdl = c)
    (haddr : addrBit7 c = false) (hstatus : s.status = statusInProgress) (hscnt : s.scnt = 0)
    (hop : fsmOpcode l = some (opcodeOf i)) (hset : l ≠ .configure .settle) (haf : afterForcing l = false)
    (hwait : waitsRequest l = false) (hw : ∀ k, l = .write16 k → s.v = s.opd) : Runs (goto l s) where
  in_progress := hstatus
  runs_command := ⟨i, by rw [goto_cmdl, hcmdl, hdec], hop, wellFormed_of_addrBit7 (encode_of_decodeWord hdec ▸ haddr)⟩
  settle_count := hscnt.trans (settleCount_of_ne hset).symm
  write_operand := hw
  forced_value h := Bool.noConfusion (haf.symm.trans h)
  bus_held h := Bool.noConfusion (hwait.symm.trans h)

/-- An accepted word leaves a state within the invariant, whatever the word. -/
theorem RteInv.accepts {c : Word} {s t : State} (h : RteInv s) (hb : s.status.busy = false) (ha : Accepts c s t) :
    RteInv t := by
  have hp := ha.paired h.paired
  have hscnt : (latchCommand c s).scnt = 0 := h.settle_only (by rw [h.idle_iff.mpr hb]; exact nofun)
  cases ha with
  | illegal => exact rteInv_finish_of_recordsPhase hp hscnt rfl
  | @command i hdec =>
    rcases commandBody_cases i (latchCommand c s) with
      ⟨-, -, e⟩ | ⟨-, haddr, ⟨-, l, hop, hwait, haf, ⟨-, hset, hw⟩, e⟩ | ⟨hop, e⟩⟩ | ⟨-, -, e⟩ | ⟨-, -, e⟩ <;>
      rw [e] at hp ⊢
    · exact rteInv_finish_of_recordsPhase hp hscnt rfl
    · exact (Runs.start hdec rfl haddr rfl hscnt hop hset haf hwait (fun k hk => absurd hk (hw k))).rteInv hp
    · exact Runs.rteInv (Runs.start hdec rfl haddr rfl hscnt (by rw [hop]; rfl) nofun rfl rfl (fun _ _ => rfl)) hp
    · exact rteInv_finish_of_recordsPhase hp hscnt rfl
    · exact rteInv_finish_of_recordsPhase hp hscnt rfl

/-! #### The engine keeps the invariant -/

/-- No sub-sequence comes from IDLE. -/
theorem Follows.source_ne_idle {k l : Fsm} (h : Follows k l) : k ≠ .idle := by
  cases h <;> exact nofun

/-- Two labels of one sub-sequence ask for the same but for the bus. -/
theorem Follows.same_phase {k l : Fsm} (h : Follows k l) :
    fsmOpcode l = fsmOpcode k ∧ settleCount l = settleCount k ∧ afterForcing l = afterForcing k ∧
      ((∃ m, l = .write16 m) → ∃ m, k = .write16 m) := by
  cases h with
  | write16 => exact ⟨rfl, rfl, rfl, fun _ => ⟨_, rfl⟩⟩
  | _ => exact ⟨rfl, rfl, rfl, nofun⟩

/-- The next label of a sub-sequence keeps the clauses of a running command. -/
theorem Runs.move {p : Prim} {l : Fsm} {s u : State} (h : Runs s) (hbus : OnBus p s u) (hl : Follows s.fsm l)
    (hheld : waitsRequest l = true → u.busHeld = true) : Runs (goto l u) := by
  obtain ⟨hop, hset, haf, hw⟩ := hl.same_phase
  obtain ⟨i, hdec, hopi, hwf⟩ := h.runs_command
  obtain ⟨_, _, rfl⟩ := hbus
  refine ⟨h.in_progress, ⟨i, hdec, hop.trans hopi, hwf⟩, h.settle_count.trans hset.symm, fun m hm => ?_,
    fun ha => h.forced_value (haf ▸ ha), hheld⟩
  obtain ⟨k, hk⟩ := hw ⟨m, hm⟩
  exact h.write_operand k hk

/-- CONFIGURE goes on to another of its parts, with the latched command as it is and its forced value at hand. -/
theorem Runs.configure {k l : CfLabel} {s t : State} (h : Runs s) (hs : s.fsm = .configure k) (ht : t.fsm = .configure l)
    (hsame : t.status = s.status ∧ t.cmdl = s.cmdl) (hscnt : t.scnt = settleCount (.configure l))
    (hforced : t.v = t.fval ∧ t.fval = force12 Config.modeParams t.rdata) (hwait : waitsRequest (.configure l) = false) :
    Runs t := by
  obtain ⟨i, hdec, hop, hwf⟩ := h.runs_command
  rw [hs] at hop
  exact
    { in_progress := hsame.1.trans h.in_progress
      runs_command := ⟨i, by rw [hsame.2, hdec], by rw [ht]; exact hop, hwf⟩
      settle_count := by rw [hscnt, ht]
      write_operand := fun m hm => by rw [ht] at hm; cases hm
      forced_value := fun _ => hforced
      bus_held := fun hw => by rw [ht, hwait] at hw; cases hw }

/-- An engine step keeps the invariant, whatever the transport answers. -/
theorem RteInv.engine {d : Draw} {s t : State} (h : RteInv s) (ho : EngineOutcome d s t) : RteInv t := by
  have hp := ho.paired h.paired
  have hruns : ∀ {l}, s.fsm = l → l ≠ .idle → Runs s := fun hs hi => h.runs (hs ▸ hi)
  have hzero : ∀ {l}, s.fsm = l → l ≠ .configure .settle → s.scnt = 0 := fun hs hne => h.settle_only (hs ▸ hne)
  cases ho with
  | idle => exact h
  | move hbus hl hheld => exact ((hruns rfl hl.source_ne_idle).move hbus hl hheld).rteInv hp
  | stop hbus hi hs he hph =>
    have hcf := (h.runs hi).isConfigure_iff
    obtain ⟨_, _, rfl⟩ := hbus
    exact rteInv_finish hp (h.settle_only hs) (fun _ hc => hph (hcf.mp hc)) (fun hv => absurd hv he)
  | read16 hs => exact rteInv_finish_of_recordsPhase hp (hzero hs nofun) rfl
  | readTemp hs => exact rteInv_finish_of_recordsPhase hp (hzero hs nofun) rfl
  | forced hs =>
    exact Runs.rteInv ((hruns hs nofun).configure hs rfl ⟨rfl, rfl⟩ (hzero hs nofun) ⟨rfl, rfl⟩ rfl) hp
  | written hs =>
    have hforced := h.forced_value (by rw [hs]; rfl)
    exact Runs.rteInv ((hruns hs nofun).configure hs rfl ⟨rfl, rfl⟩ settleCount_settle.symm hforced rfl) hp
  | settled hs =>
    have hforced := h.forced_value (by rw [hs]; rfl)
    have hdown : (settleStep s).scnt = 0 := by rw [settleStep, goto_scnt, settleClocks_scnt, Nat.sub_self]
    exact Runs.rteInv ((hruns hs nofun).configure hs rfl ⟨rfl, rfl⟩ hdown hforced rfl) hp
  | readback hs =>
    have hcf : isConfigure s = true := (hruns hs nofun).isConfigure_iff.mpr (by rw [hs]; rfl)
    exact rteInv_finish hp (hzero hs nofun) nofun (fun _ => ⟨hcf, rfl⟩)

/-! #### Every step keeps the invariant -/

/-- The invariant does not look at the agents' bookkeeping. -/
theorem RteInv.of_sameRte {s t : State} (h : RteInv s) (hs : sameRte s t) : RteInv t := by
  obtain ⟨_, _, _, _, rfl⟩ := hs
  exact { h with }

/-- The invariant does not look at WDATA. -/
theorem RteInv.writeWdata {s : State} (h : RteInv s) (w : Word) : RteInv (writeWdata w s) := { h with }

/-- `rst` leaves a state within the invariant, whatever it finds (R38). -/
theorem rteInv_resetRte (s : State) : RteInv (resetRte s) where
  idle_iff := ⟨fun _ => rfl, fun _ => rfl⟩
  status_legal := .inl rfl
  phase_zero _ := rfl
  phase_named h := by cases h
  verify_phase h := by cases h
  cmd_latched := rfl
  runs_command _ h := by cases h
  tempq_extended := by rw [resetRte_tempq]; decide
  temp_pair := rfl
  settle_bound := Nat.zero_le _
  settle_loaded h := by cases h
  settle_only _ := rfl
  write_operand _ h := by cases h
  forced_value h := by cases h
  bus_held h := by cases h

/-- Settles O3: power-on is what `rst` leaves. -/
theorem invHoldsAtReset : Obligations.InvHoldsAtReset :=
  rteInv_resetRte State.reset

/-- Settles O4, by the outcomes of a step. -/
theorem everyStepKeepsInv : Obligations.EveryStepKeepsInv := by
  intro s t h hstep
  cases step_outcome hstep with
  | quiet hs => exact h.of_sameRte hs
  | wdata hu ht => exact ((h.of_sameRte hu).writeWdata _).of_sameRte ht
  | accept _ hu hb hv ht =>
    exact ((h.of_sameRte hu).accepts (hu.status_eq ▸ hb) hv).of_sameRte ht
  | engine hu ht => exact ht ▸ (h.of_sameRte hu.sameRte).engine (engineStep_outcome _ _)
  | reset _ _ ht => exact ht ▸ rteInv_resetRte _

/-- Settles O5: the invariant bounds SCNT by SETTLE_CYCLES, which the width holds. -/
theorem settleCounterFitsItsWidth : Obligations.SettleCounterFitsItsWidth := by
  intro s h
  calc s.scnt < Config.settleCycles + 1 := Nat.lt_succ_of_le h.settle_bound
    _ ≤ 2 ^ Nat.clog 2 (Config.settleCycles + 1) := Nat.le_pow_clog (by decide) _

end Sys2Proof.Machine
end

section
/-! PROOFS. The memory family: which accesses the window refuses (20_memory.md R50, R51), what else a step can be refused
for (30_encoding.md R81), and the serialization of commands (R63). -/

namespace Sys2Proof.Machine

/-! ### Undefined accesses -/

/-- An access is undefined for its width, its alignment or its place (R50). -/
theorem accessDefined_eq_false_iff {off width : Nat} :
    accessDefined off width = false ↔ width ≠ 4 ∨ off % 4 ≠ 0 ∨ 0x40 ≤ off := by
  simp [accessDefined, imp_iff_not_or, or_assoc]

theorem hostAccess_read_undefined {off width : Nat} (h : accessDefined off width = false) (s : State) :
    hostAccess (.read off width) s = .refused (.undefinedAccess off width) := by
  simp only [hostAccess, h, Bool.false_eq_true, if_false]

theorem hostAccess_write_undefined {off width : Nat} (h : accessDefined off width = false) (v : Word) (s : State) :
    hostAccess (.write off width v) s = .refused (.undefinedAccess off width) := by
  simp only [hostAccess, h, Bool.false_eq_true, if_false]

/-- Settles O39. -/
theorem undefinedAccessesAreRefused : Obligations.UndefinedAccessesAreRefused := by
  intro s rest off width v hbad
  have hd : accessDefined off width = false := accessDefined_eq_false_iff.mpr hbad
  refine ⟨fun hs => ?_, fun hs => ?_⟩
  · rw [step_of_script_cons hs, runEvent, hostAccess_read_undefined hd]
  · rw [step_of_script_cons hs, runEvent, hostAccess_write_undefined hd]

/-! ### What a step can answer -/

/-- The answers a step can give while the host runs the program `p`: a next state, or one of the two refusals with the
condition that raises it. No constructor is a fault (R205). -/
inductive Answer (p : List Stmt) : Result → Prop where
  | next (t : State) : Answer p (.next t)
  | undefinedAccess {off width} (h : accessDefined off width = false) :
      Answer p (.refused (.undefinedAccess off width))
  | undefinedLabel {l} (h : Stmt.label l ∉ p) : Answer p (.refused (.undefinedLabel l))

/-- Every word written to CMD is a command or ILLEGAL, so the window refuses no write (R78). -/
theorem windowWrite_answer (p : List Stmt) (off : Nat) (v : Word) (s : State) : Answer p (windowWrite off v s) := by
  unfold windowWrite
  split
  · unfold writeCmd
    split
    · rw [exec_eq]
      exact .next _
    · exact .next _
  · exact .next _
  · exact .next _

/-- An access does not look at the host's program. -/
theorem hostAccess_answer (p : List Stmt) (a : Access) (s : State) : Answer p (hostAccess a s) := by
  cases a with
  | read off width =>
    cases hd : accessDefined off width with
    | false => exact hostAccess_read_undefined hd s ▸ .undefinedAccess hd
    | true =>
      simp only [hostAccess, hd, if_true]
      exact .next _
  | write off width v =>
    cases hd : accessDefined off width with
    | false => exact hostAccess_write_undefined hd v s ▸ .undefinedAccess hd
    | true =>
      simp only [hostAccess, hd, if_true]
      exact windowWrite_answer p off v s

/-- Going on to the next statement passes a refusal on. -/
theorem Answer.thenAdvance {p : List Stmt} {r : Result} (h : Answer p r) : Answer p (thenAdvance r) := by
  cases h with
  | next t => exact .next _
  | undefinedAccess h => exact .undefinedAccess h
  | undefinedLabel h => exact .undefinedLabel h

/-- A jump is refused where no statement of the program is its label (log 14). -/
theorem hostJump_answer (l : Nat) (s : State) : Answer s.host.prog (hostJump l s) := by
  unfold hostJump
  split
  · exact .next _
  · rename_i hnone
    refine .undefinedLabel fun hmem => ?_
    exact of_decide_eq_false (List.findIdx?_eq_none_iff.mp hnone _ hmem) rfl

/-- Of the statements `wr` and `rd` access the window, and the branches and `jmp` jump (R81). -/
theorem runStmt_answer (st : Stmt) (s : State) : Answer s.host.prog (runStmt st s) := by
  cases st with
  | wr off e => exact (hostAccess_answer _ _ _).thenAdvance
  | rd x off => exact (hostAccess_answer _ _ _).thenAdvance
  | beq x f k l =>
    simp only [runStmt]
    split
    · exact hostJump_answer l s
    · exact .next _
  | bne x f k l =>
    simp only [runStmt]
    split
    · exact .next _
    · exact hostJump_answer l s
  | jmp l => exact hostJump_answer l s
  | label l => exact .next _
  | halt => exact .next _
  | emit es => exact .next _

theorem hostTurn_answer (s : State) : Answer s.host.prog (hostTurn s) := by
  unfold hostTurn
  split
  · exact runStmt_answer _ s
  · exact .next _

/-- The engine and `rst` are never refused (R33, R230). -/
theorem runEvent_answer (e : Event) (s : State) : Answer s.host.prog (runEvent e s) := by
  cases e with
  | access a => exact hostAccess_answer _ a s
  | hostTurn => exact hostTurn_answer s
  | engine d => exact .next _
  | reset => exact .next _

/-- Every step answers as the agent whose turn the schedule makes it. -/
theorem step_answer (s : State) : Answer s.host.prog (step s) := by
  cases hs : s.script with
  | cons e rest => exact step_of_script_cons hs ▸ runEvent_answer e { s with script := rest }
  | nil =>
    by_cases hi : s.fsm = .idle
    · exact step_of_script_nil_idle hs hi ▸ hostTurn_answer s
    · exact step_of_script_nil_running hs hi ▸ runEvent_answer (freeEvent s) { s with drawn := s.drawn + 1 }

/-- Settles O40: each answer a step can give is one alternative of the statement. -/
theorem onlyUndefinedHostActionsAreRefused : Obligations.OnlyUndefinedHostActionsAreRefused := by
  intro s
  have ha := step_answer s
  generalize step s = r at ha ⊢
  cases ha with
  | next t => exact .inl ⟨t, rfl⟩
  | undefinedAccess h => exact .inr (.inl ⟨_, _, rfl, h⟩)
  | undefinedLabel h => exact .inr (.inr ⟨_, rfl, h⟩)

/-! ### Commands are serialized (20_memory.md R63) -/

/-- Settles O50: but for reset, a change of CMD, CMDL or OPD is by the engine, which keeps them, or by an acceptance,
which a busy RTE does not make. -/
theorem noCommandStartsWhileBusy : Obligations.NoCommandStartsWhileBusy := by
  intro s t h hbusy
  by_cases hsame : (t.cmd, t.cmdl, t.opd) = (s.cmd, s.cmdl, s.opd)
  · exact .inr (by simpa only [Prod.mk.injEq] using hsame)
  · obtain hr | ⟨d, u, hu, rfl⟩ | ⟨c, u, v, -, -, hb, -, -⟩ := step_changes (fun t => (t.cmd, t.cmdl, t.opd)) h hsame
      (by rintro s u ⟨_, _, _, _, rfl⟩; rfl) (fun _ _ => rfl)
    · exact .inl hr
    · obtain ⟨hcmd, hcmdl, hopd, -⟩ := engineFrame d u
      obtain ⟨_, _, _, _, rfl⟩ := hu.sameRte
      exact .inr ⟨hcmd, hcmdl, hopd⟩
    · exact Bool.noConfusion (hb.symm.trans hbusy)

end Sys2Proof.Machine
end

section
/-! PROOFS. The encoding family: the decoder against the encoder and the opcode table (30_encoding.md R70 to R75, R82),
what the acceptance of a word does (R76 to R83), and the host language (R81). -/

namespace Sys2Proof

/-! ### Decoder and encoder -/

/-- A command's word decodes to it. -/
theorem decodeWord_encode (i : Instr) : decodeWord (encode i) = .ok i := by
  rw [encode_eq_fields, decodeWord_encodeFields]
  exact (decodeOp_ok_iff _ _ _ _).mpr ⟨rfl, rfl, rfl⟩

/-- Settles O6: the fields of an assembled word are those it was assembled from, and a word whose reserved fields are 0
is assembled from its fields. -/
theorem decodeEncodeAgree : Obligations.DecodeEncodeAgree :=
  ⟨decodeWord_encode, fun _ _ => Machine.encode_of_decodeWord⟩

/-- The words of the table and no others decode. -/
theorem decodeWord_eq_ok_iff {c : Word} {i : Instr} : decodeWord c = .ok i ↔ encode i = c :=
  ⟨Machine.encode_of_decodeWord, fun h => h ▸ decodeWord_encode i⟩

/-- Settles O7: a reserved field is checked first, and then the opcode. -/
theorem rejectsExactlyTheIllegalWords : Obligations.RejectsExactlyTheIllegalWords := by
  intro c
  change (∃ r, decodeWord c = .error r) ↔
    ((opField c).toNat = 0 ∨ 8 ≤ (opField c).toNat ∨ rsv0Field c ≠ 0#4 ∨ rsv1Field c ≠ 0#8)
  by_cases h0 : rsv0Field c = 0#4
  · by_cases h1 : rsv1Field c = 0#8
    · simp [decodeWord, h0, h1, decodeOp_error_iff]
    · simp [decodeWord, h0, h1]
  · simp [decodeWord, h0]

/-! ### The opcode table (R75) -/

/-! The mask of the table leaves the fields it checks. -/

theorem opField_masked (c : Word) : opField (c &&& tableMask) = opField c := by
  unfold opField tableMask
  ext j hj
  interval_cases j <;> simp

theorem rsv0Field_masked (c : Word) : rsv0Field (c &&& tableMask) = rsv0Field c := by
  unfold rsv0Field tableMask
  ext j hj
  interval_cases j <;> simp

theorem rsv1Field_masked (c : Word) : rsv1Field (c &&& tableMask) = rsv1Field c := by
  unfold rsv1Field tableMask
  ext j hj
  interval_cases j <;> simp

/-- The match word of a command's row is its opcode. -/
theorem tableMatch_eq_setWidth (i : Instr) : tableMatch i = (opcodeOf i).setWidth 32 := by
  cases i <;> rfl

/-- The match word of a command's row is the command's word with ADDR and REG 0. -/
theorem tableMatch_eq_fields (i : Instr) : tableMatch i = encodeFields (opcodeOf i) 0#8 0#8 := by
  simp [tableMatch_eq_setWidth, encodeFields]

/-- A command's word matches its row, whatever ADDR and REG are. -/
theorem encode_masked (i : Instr) : encode i &&& tableMask = tableMatch i := by
  rw [encode_eq_fields, Laws.TableMatch.encodeFields_masked, tableMatch_eq_setWidth]

/-- A word that matches a command's row and has its ADDR and REG is the command's word. -/
theorem encode_of_masked {c : Word} {i : Instr} (hm : c &&& tableMask = tableMatch i) (ha : i.addr = addrField c)
    (hr : i.reg = regField c) : encode i = c := by
  rw [tableMatch_eq_fields] at hm
  have hop : opField c = opcodeOf i := by rw [← opField_masked, hm, opField_encodeFields]
  have h0 : rsv0Field c = 0#4 := by rw [← rsv0Field_masked, hm, rsv0Field_encodeFields]
  have h1 : rsv1Field c = 0#8 := by rw [← rsv1Field_masked, hm, rsv1Field_encodeFields]
  rw [encode_eq_fields, ← hop, ha, hr, encodeFields_of_fields c h0 h1]

@[simp] theorem addrField_encode (i : Instr) : addrField (encode i) = i.addr := by
  rw [encode_eq_fields, addrField_encodeFields]

@[simp] theorem regField_encode (i : Instr) : regField (encode i) = i.reg := by
  rw [encode_eq_fields, regField_encodeFields]

/-- Settles O8: the mask checks OP and the reserved fields, and ADDR and REG are the rest of the word. -/
theorem decoderMatchesMaskAndMatch : Obligations.DecoderMatchesMaskAndMatch := by
  intro c i
  rw [decodeWord_eq_ok_iff]
  constructor
  · rintro rfl
    exact ⟨encode_masked i, (addrField_encode i).symm, (regField_encode i).symm⟩
  · rintro ⟨hm, ha, hr⟩
    exact encode_of_masked hm ha hr

/-- Settles O9: the decoder computes on each word. -/
theorem listedWordsDecode : Obligations.ListedWordsDecode :=
  ⟨rfl, rfl, rfl, rfl, rfl, rfl, rfl, rfl, rfl, rfl, rfl, rfl, rfl, rfl, rfl, rfl, rfl, rfl⟩

/-! ### The pseudo-instructions (R82) -/

/-- The number R82 writes for a command is the word of its fields. -/
theorem encNumber_toNat (op : BitVec 4) (a r : Byte) : encNumber op.toNat a.toNat r.toNat = encodeFields op a r := by
  apply BitVec.eq_of_toNat_eq
  have ha : a.toNat % 4294967296 = a.toNat := Nat.mod_eq_of_lt (by have := a.isLt; omega)
  have hr : r.toNat % 4294967296 = r.toNat := Nat.mod_eq_of_lt (by have := r.isLt; omega)
  simp [encNumber, encodeFields, ha, hr]

/-- `enc` of a command's opcode, address and register is its word. -/
theorem encNumber_eq_encode (i : Instr) : encNumber (opcodeOf i).toNat i.addr.toNat i.reg.toNat = encode i := by
  rw [encNumber_toNat, encode_eq_fields]

/-- Settles O10: each write to CMD is `enc` of its command. -/
theorem pseudoInstructionsWriteTheCommandWord : Obligations.PseudoInstructionsWriteTheCommandWord := by
  intro a r v
  have hcmd : ∀ i : Instr, Machine.Stmt.wr Machine.offCmd
      (.const (encNumber (opcodeOf i).toNat i.addr.toNat i.reg.toNat)) = .wr 0x00 (.const (encode i)) :=
    fun i => by rw [encNumber_eq_encode, Machine.offCmd]
  exact ⟨congrArg ([·]) (hcmd (.probe a 0#8)), congrArg ([·]) (hcmd (.read16 a r)),
    congrArg ([_, ·]) (hcmd (.write16 a r)), congrArg ([·]) (hcmd (.configure a 0#8)),
    congrArg ([·]) (hcmd (.readTemp a 0#8)), congrArg ([_, ·]) (hcmd (.force 0#8 0#8)),
    congrArg ([_, ·]) (hcmd (.decode 0#8 0#8))⟩

end Sys2Proof

namespace Sys2Proof.Machine

/-! ### Acceptance (R76 to R83) -/

/-- A write of a word that is no command to CMD is the acceptance of an illegal word (R78). -/
theorem writeCmd_of_decodeWord_error {c : Word} {e : DecodeReject} (h : decodeWord c = .error e) (s : State) :
    writeCmd c s = .next (acceptIllegal c s) := by
  simp only [writeCmd, h]

/-- While BUSY a write to CMD has no effect, whatever the word (R83). -/
theorem writeCmd_busy (c : Word) {s : State} (hb : s.status.busy = true) : writeCmd c s = .next s := by
  cases hd : decodeWord c with
  | ok i => rw [writeCmd_of_decodeWord hd, exec_eq, acceptCommand_busy hb]
  | error e => rw [writeCmd_of_decodeWord_error hd, acceptIllegal, acceptCommand_busy hb]

/-- A step that is an access from outside to CMD is the write of its word. -/
theorem step_writes_cmd {s : State} {rest : List Event} {c : Word}
    (hs : s.script = .access (.write 0x00 4 c) :: rest) : step s = writeCmd c { s with script := rest } := by
  rw [step_of_script_cons hs, runEvent, hostAccess_write (by decide) rfl, windowWrite]

/-- Settles O14: taking the access off the script leaves BUSY. -/
theorem commandWhileBusyIsIgnored : Obligations.CommandWhileBusyIsIgnored := by
  intro s rest c hb hs
  rw [step_writes_cmd hs]
  exact writeCmd_busy c hb

/-- A completion without a phase does not look at the command (R201, R203). -/
theorem finish_zero (e : ErrCode) (s : State) :
    finish e 0#2 s = { s with status := statusFinished e 0#2, fsm := .idle } := by
  rw [finish, finishPhase_zero]

/-- Settles O15: the words it names are those the decoder rejects. -/
theorem illegalWordCompletesAtOnce : Obligations.IllegalWordCompletesAtOnce := by
  intro s rest c hb hs hc
  obtain ⟨e, hd⟩ := (rejectsExactlyTheIllegalWords c).mpr hc
  refine ⟨?_, rfl⟩
  rw [step_writes_cmd hs, writeCmd_of_decodeWord_error hd, acceptIllegal,
    acceptCommand_idle (s := { s with script := rest }) hb, finish_zero]
  rfl

/-- An idle RTE latches the command's word and goes on with its body (R76). -/
theorem exec_idle (i : Instr) {s : State} (hb : s.status.busy = false) :
    exec i s = .next (commandBody i (latchCommand (encode i) s)) := by
  rw [exec_eq, acceptCommand_idle hb]

/-- ADDR[7] is 1 exactly from 0x80 up (R79). -/
theorem getLsbD_seven_eq (a : Byte) : a.getLsbD 7 = decide (0x80 ≤ a.toNat) :=
  BitVec.msb_eq_decide a

/-- A local command completes with OK, whatever its ADDR is (R77, R145, R182). -/
theorem commandBody_of_not_usesBus {i : Instr} (hi : i.usesBus = false) (s : State) :
    (commandBody i s).fsm = .idle ∧ (commandBody i s).status = statusOk := by
  cases i with
  | force | decode => exact ⟨rfl, rfl⟩
  | _ => cases hi

/-- Settles O16: of the cases of a command's body only BAD_ADDR has a bus command with ADDR[7] = 1. -/
theorem badAddressCompletesAtOnce : Obligations.BadAddressCompletesAtOnce := by
  constructor
  · intro i s hb hi ha
    have hbad : addrBit7 (latchCommand (encode i) s).cmdl = true := by
      rw [latchCommand_cmdl, addrBit7_encode, getLsbD_seven_eq, decide_eq_true ha]
    rw [exec_idle i hb]
    rcases commandBody_cases i (latchCommand (encode i) s) with ⟨-, -, e⟩ | ⟨-, hok, -⟩ | ⟨hloc, -⟩ | ⟨hloc, -⟩
    · rw [e, finish_zero]
      rfl
    · exact absurd (hbad.symm.trans hok) nofun
    · exact absurd (hi.symm.trans hloc) nofun
    · exact absurd (hi.symm.trans hloc) nofun
  · intro i s t hb hi he
    rw [exec_idle i hb] at he
    cases he
    exact (commandBody_of_not_usesBus hi _).2

/-- A legal address passes the check, and the sequence starts (R76, R79). -/
theorem checkAddress_legal (start : State → State) {s : State} (h : addrBit7 s.cmdl = false) :
    checkAddress start s = start s := by
  simp only [checkAddress, h, Bool.false_eq_true, if_false]

/-- Settles O17: the address check passes, and the rest of each body is its first label. -/
theorem busCommandsAreAccepted : Obligations.BusCommandsAreAccepted := by
  intro s addr reg hb ha
  have hlegal : ∀ op, addrBit7 (latchCommand (encodeFields op addr reg) s).cmdl = false := fun op => by
    rw [latchCommand_cmdl, addrBit7_encodeFields, getLsbD_seven_eq, decide_eq_false (by omega)]
  refine ⟨?_, ?_, ?_, ?_, ?_, rfl, rfl⟩
  all_goals
    rw [exec_idle _ hb, commandBody]
    exact congrArg Host.Outcome.next (checkAddress_legal _ (hlegal _))

/-- WRITE16 alone loads V at acceptance (R111). -/
theorem commandBody_v {i : Instr} (h : opcodeOf i ≠ 0x3#4) (s : State) : (commandBody i s).v = s.v :=
  commandBody_keeps _ i s (fun _ _ => rfl) (fun _ _ _ => rfl) (fun h3 => absurd h3 h) (fun _ _ _ => rfl)
    (fun _ _ _ => rfl)

/-- What no command's acceptance writes: the data and the bus's side of the RTE, and the host's side. -/
def acceptanceKeeps (s : State) :=
  (s.wdata, s.rdata, s.hi, s.scnt, s.busHeld, s.busLog, s.reads, s.script, s.drawn, s.host)

/-- A command's body leaves that part as it is. -/
theorem acceptanceKeeps_commandBody (i : Instr) (s : State) : acceptanceKeeps (commandBody i s) = acceptanceKeeps s :=
  commandBody_keeps _ i s (fun _ _ => rfl) (fun _ _ _ => rfl) (fun _ _ _ => rfl) (fun _ _ _ => rfl) (fun _ _ _ => rfl)

/-- Settles O20: a busy RTE changes nothing, and an idle one latches the word and runs the command's body. -/
theorem acceptanceFrame : Obligations.AcceptanceFrame := by
  intro i s t h
  rcases exec_cases h with ⟨-, rfl⟩ | ⟨-, rfl⟩
  · exact ⟨rfl, rfl, rfl, rfl, rfl, rfl, rfl, rfl, rfl, rfl, fun _ => rfl, fun _ => ⟨rfl, rfl⟩, fun _ => rfl⟩
  · have hk := acceptanceKeeps_commandBody i (latchCommand (encode i) s)
    simp only [acceptanceKeeps, Prod.mk.injEq] at hk
    obtain ⟨hwdata, hrdata, hhi, hscnt, hheld, hlog, hreads, hscript, hdrawn, hhost⟩ := hk
    exact ⟨hwdata, hrdata, hhi, hscnt, hheld, hlog, hreads, hscript, hdrawn, hhost, fun h6 => commandBody_fval h6 _,
      fun h7 => Prod.mk.inj (commandBody_sample h7 _), fun h3 => commandBody_v h3 _⟩

/-! ### Ignored fields (R77) -/

/-- The state with another word in CMD and CMDL. -/
def withWord (c : Word) (s : State) : State := { s with cmd := c, cmdl := c }

/-- What a running command looks at in its word, unless it also looks at REG: the opcode and the bus address. -/
def SameCommand (c c' : Word) : Prop := opField c = opField c' ∧ busAddr c = busAddr c'

/-- The sequences that send REG are those of READ16 and WRITE16 (R110, R111). -/
def SendsReg (l : Fsm) : Prop := fsmOpcode l = some 0x2#4 ∨ fsmOpcode l = some 0x3#4

section
variable {c : Word} {s : State} (h : SameCommand c s.cmdl)
include h

/-! Completion and the primitives that carry the address give the same under another word of the same command. -/

theorem finish_withWord (e : ErrCode) (ph : BitVec 2) : finish e ph (withWord c s) = withWord c (finish e ph s) := by
  simp only [finish, isConfigure, withWord, h.1]

theorem tBegin_withWord : tBegin (withWord c s) = withWord c (tBegin s) := by
  simp only [tBegin, issue, withWord, h.2]

theorem tRequest_withWord (n : Fin 3) : tRequest n (withWord c s) = withWord c (tRequest n s) := by
  simp only [tRequest, issue, withWord, h.2]

/-- A step of a register read looks at no more of the word than its caller's part does. -/
theorem rdStep_withWord {r : Byte} {ph : BitVec 2} {lab : RdLabel → Fsm} {onValue : Half → State → State}
    (hval : ∀ w t, SameCommand c t.cmdl → onValue w (withWord c t) = withWord c (onValue w t))
    (l : RdLabel) (d : Draw) :
    rdStep r ph lab onValue l d (withWord c s) = withWord c (rdStep r ph lab onValue l d s) := by
  cases l with
  | rd1 => exact congrArg (goto _) (tBegin_withWord h)
  | rd3 =>
    simp only [rdStep]
    split
    · rfl
    · exact finish_withWord (s := tEnd false d.ack s) h .nack ph
  | rd4 =>
    simp only [rdStep, tRequest_withWord h]
    split
    · rfl
    · exact finish_withWord (s := tRequest d.n s) h .shortRead ph
  | rd6 => exact hval _ (tRead d.byte s) h
  | rd2 | rd5 => rfl

/-- A step of a register write looks at no more of the word than its caller's part does. -/
theorem wrStep_withWord {r : Byte} {ph : BitVec 2} {lab : WrLabel → Fsm} {onAck : State → State}
    (hack : ∀ t, onAck (withWord c t) = withWord c (onAck t)) (l : WrLabel) (d : Draw) :
    wrStep r ph lab onAck l d (withWord c s) = withWord c (wrStep r ph lab onAck l d s) := by
  cases l with
  | wr1 => exact congrArg (goto _) (tBegin_withWord h)
  | wr5 =>
    simp only [wrStep]
    split
    · exact hack (tEnd true d.ack s)
    · exact finish_withWord (s := tEnd true d.ack s) h .nack ph
  | wr2 | wr3 | wr4 => rfl

theorem configureStep_withWord (l : CfLabel) (d : Draw) :
    configureStep l d (withWord c s) = withWord c (configureStep l d s) := by
  simp only [configureStep]
  cases l with
  | r1 l => exact rdStep_withWord h (onValue := configureValue) (fun _ _ _ => rfl) l d
  | wr l => exact wrStep_withWord h (onAck := configureWritten) (fun _ => rfl) l d
  | settle => rfl
  | r2 l => exact rdStep_withWord h (fun w t ht => finish_withWord (s := { t with rdata := w }) ht _ _) l d

theorem probeStep_withWord (l : PbLabel) (d : Draw) : probeStep l d (withWord c s) = withWord c (probeStep l d s) := by
  cases l with
  | pb1 => exact congrArg (goto _) (tBegin_withWord h)
  | pb2 => exact finish_withWord (s := tEnd true d.ack s) h _ _

/-- An engine step that does not send REG looks at the opcode and the bus address of the word alone. -/
theorem engineStep_withWord (hreg : ¬ SendsReg s.fsm) (d : Draw) :
    engineStep d (withWord c s) = withWord c (engineStep d s) := by
  have hw : (withWord c s).fsm = s.fsm := rfl
  cases hs : s.fsm with
  | idle => rw [engineStep_idle d hs, engineStep_idle d (hw.trans hs)]
  | probe l => rw [engineStep_probe d hs, engineStep_probe d (hw.trans hs), probeStep_withWord h]
  | read16 l => exact absurd (.inl (hs ▸ rfl)) hreg
  | write16 l => exact absurd (.inr (hs ▸ rfl)) hreg
  | configure l => rw [engineStep_configure d hs, engineStep_configure d (hw.trans hs), configureStep_withWord h]
  | readTemp l =>
    rw [engineStep_readTemp d hs, engineStep_readTemp d (hw.trans hs)]
    exact rdStep_withWord h
      (fun w t ht => finish_withWord (s := setSample w { t with rdata := w }) ht .noErr 0#2) l d

end

/-- An engine step stays in the command's sequence or ends it (R32). -/
theorem EngineOutcome.fsmOpcode {d : Draw} {s t : State} (ho : EngineOutcome d s t) :
    t.fsm = .idle ∨ fsmOpcode t.fsm = fsmOpcode s.fsm := by
  cases ho with
  | idle => exact .inr rfl
  | move hbus hl => exact .inr hl.same_phase.1
  | stop | read16 | readTemp | readback => exact .inl rfl
  | forced h | written h | settled h => exact .inr (by rw [h]; rfl)

theorem not_sendsReg_idle : ¬ SendsReg .idle := by
  rintro (h | h)
  · cases h
  · cases h

/-- A sequence that does not send REG does not come to do so. -/
theorem not_sendsReg_engineStep {s : State} (h : ¬ SendsReg s.fsm) (d : Draw) : ¬ SendsReg (engineStep d s).fsm := by
  rcases (engineStep_outcome d s).fsmOpcode with hi | hop
  · exact hi ▸ not_sendsReg_idle
  · rwa [SendsReg, hop]

/-- A run that does not send REG is the same for every word with that opcode and bus address, but for the word
itself. -/
theorem engineRun_withWord (ds : List Draw) {c : Word} {s : State} (h : SameCommand c s.cmdl)
    (hreg : ¬ SendsReg s.fsm) :
    engineRun ds (withWord c s) = withWord c (engineRun ds s) := by
  induction ds generalizing s with
  | nil => rfl
  | cons d ds ih =>
    obtain ⟨-, hcmdl, -⟩ := engineFrame d s
    rw [engineRun, engineStep_withWord h hreg, ih (hcmdl ▸ h) (not_sendsReg_engineStep hreg d), engineRun]

/-- A run of the engine leaves CMD (R24). -/
theorem engineRun_cmd (ds : List Draw) (s : State) : (engineRun ds s).cmd = s.cmd := by
  induction ds generalizing s with
  | nil => rfl
  | cons d ds ih => rw [engineRun, ih, (engineFrame d s).1]

/-- The commands `i` and `j` differ at most in fields that they ignore (R77). -/
inductive AgreeButIgnored : Instr → Instr → Prop where
  | probe (a r r') : AgreeButIgnored (.probe a r) (.probe a r')
  | configure (a r r') : AgreeButIgnored (.configure a r) (.configure a r')
  | readTemp (a r r') : AgreeButIgnored (.readTemp a r) (.readTemp a r')
  | force (a r a' r') : AgreeButIgnored (.force a r) (.force a' r')
  | decode (a r a' r') : AgreeButIgnored (.decode a r) (.decode a' r')

/-- The address check looks at ADDR[7] of the word alone. -/
theorem checkAddress_goto_withWord {c : Word} {s : State} (h : addrBit7 c = addrBit7 s.cmdl) (l : Fsm) :
    checkAddress (goto l) (withWord c s) = withWord c (checkAddress (goto l) s) := by
  have hw : addrBit7 (withWord c s).cmdl = addrBit7 s.cmdl := h
  rcases checkAddress_cases (goto l) s with ⟨hb, e⟩ | ⟨hb, e⟩
  · rw [e, checkAddress, if_pos (hw.trans hb), finish_zero, finish_zero]
    rfl
  · rw [e]
    exact checkAddress_legal _ (hw.trans hb)

/-- The acceptance of such commands differs in the word alone. -/
theorem AgreeButIgnored.commandBody_eq {i j : Instr} (h : AgreeButIgnored i j) (s : State) :
    commandBody j (latchCommand (encode j) s) = withWord (encode j) (commandBody i (latchCommand (encode i) s)) := by
  cases h with
  | probe | configure | readTemp =>
    refine checkAddress_goto_withWord (s := latchCommand _ s) ?_ _
    rw [latchCommand_cmdl, addrBit7_encode, addrBit7_encode]
    rfl
  | force | decode => simp only [commandBody, finish_zero, setSample, withWord, latchCommand]

/-- A bus command among such two has the opcode and the bus address of the other, and its sequence does not send REG. -/
theorem AgreeButIgnored.sameCommand {i j : Instr} (h : AgreeButIgnored i j) (hi : i.usesBus = true) :
    SameCommand (encode j) (encode i) ∧ opcodeOf i ≠ 0x2#4 ∧ opcodeOf i ≠ 0x3#4 := by
  simp only [SameCommand, encode_eq_fields, opField_encodeFields, busAddr_encodeFields]
  cases h with
  | probe | configure | readTemp => exact ⟨⟨rfl, rfl⟩, nofun, nofun⟩
  | force | decode => cases hi

/-- Only READ16 and WRITE16 start a sequence that sends REG. -/
theorem not_sendsReg_commandBody {i : Instr} (h2 : opcodeOf i ≠ 0x2#4) (h3 : opcodeOf i ≠ 0x3#4) (s : State) :
    ¬ SendsReg (commandBody i s).fsm := by
  rcases commandBody_cases i s with ⟨-, -, e⟩ | ⟨-, -, ⟨-, l, hl, -, -, -, e⟩ | ⟨hop, -⟩⟩ | ⟨-, -, e⟩ | ⟨-, -, e⟩
  case inr.inl.inl =>
    rw [e, goto_fsm, SendsReg, hl]
    rintro (h | h)
    · exact h2 (Option.some.inj h)
    · exact h3 (Option.some.inj h)
  case inr.inl.inr => exact absurd hop h3
  all_goals
    rw [e, finish_fsm]
    exact not_sendsReg_idle

/-- The runs of such commands differ in the word alone: the local ones are over, and the others send no REG. -/
theorem AgreeButIgnored.engineRun_eq {i j : Instr} (h : AgreeButIgnored i j) (ds : List Draw) (s : State) :
    engineRun ds (commandBody j (latchCommand (encode j) s)) =
      withWord (encode j) (engineRun ds (commandBody i (latchCommand (encode i) s))) := by
  rw [h.commandBody_eq]
  cases hi : i.usesBus with
  | true =>
    obtain ⟨hsame, h2, h3⟩ := h.sameCommand hi
    exact engineRun_withWord ds (by rwa [commandBody_cmdl]) (not_sendsReg_commandBody h2 h3 _)
  | false =>
    have hidle := (commandBody_of_not_usesBus hi (latchCommand (encode i) s)).1
    rw [engineRun_idle ds _ hidle]
    exact engineRun_idle ds _ hidle

/-- Settles O52: both runs start from acceptances that differ in the word alone, and no engine step reads CMD. -/
theorem ignoredFieldsHaveNoEffect : Obligations.IgnoredFieldsHaveNoEffect := by
  intro s t u a r a' r' ds i j hij _ hb ht hu
  have h : AgreeButIgnored i j := by
    rcases hij with ⟨rfl, rfl⟩ | ⟨rfl, rfl⟩ | ⟨rfl, rfl⟩ | ⟨rfl, rfl⟩ | ⟨rfl, rfl⟩ <;> constructor
  rw [exec_idle i hb] at ht
  rw [exec_idle j hb] at hu
  cases ht
  cases hu
  refine ⟨by rw [h.engineRun_eq]; rfl, (engineRun_cmd ds _).trans (commandBody_cmd i _),
    (engineRun_cmd ds _).trans (commandBody_cmd j _), fun hi => ?_⟩
  obtain ⟨hidle, hok⟩ := commandBody_of_not_usesBus hi (latchCommand (encode i) s)
  rw [engineRun_idle ds _ hidle, hok]

/-! ### The host language (R81) -/

/-- A host that has halted or has no statement left does nothing (log 14). -/
theorem hostTurn_of_none {s : State} (h : currentStmt s.host = none) : hostTurn s = .next s := by
  simp only [hostTurn, h]

/-- The host's turn is its statement. -/
theorem hostTurn_of_stmt {s : State} {st : Stmt} (hrun : s.host.halted = false)
    (hst : s.host.prog[s.host.pos]? = some st) : hostTurn s = runStmt st s := by
  simp only [hostTurn, currentStmt, hrun, Bool.false_eq_true, if_false, hst]

/-- A jump goes to the first place of its label, and is refused where there is none (log 14). -/
theorem hostJump_jumpsTo (l : Nat) (s : State) : JumpsTo l s (hostJump l s) := by
  constructor
  · intro k hk hfirst
    obtain ⟨hlt, hlabel⟩ := List.getElem?_eq_some_iff.mp hk
    have hfind : s.host.prog.findIdx? (fun st => decide (st = .label l)) = some k := by
      refine List.findIdx?_eq_some_iff_getElem.mpr ⟨hlt, decide_eq_true hlabel, fun j hj hd => ?_⟩
      exact hfirst j hj (List.getElem?_eq_some_iff.mpr ⟨_, of_decide_eq_true hd⟩)
    simp only [hostJump, hfind]
  · intro hnone
    have hfind : s.host.prog.findIdx? (fun st => decide (st = .label l)) = none :=
      List.findIdx?_eq_none_iff.mpr fun st hst => decide_eq_false fun heq => hnone (heq ▸ hst)
    simp only [hostJump, hfind]

/-- A variable holds what was last assigned to it. -/
theorem hostVar_setHostVar_same (x : Nat) (w : Word) (g : HostAgent) : hostVar x (setHostVar x w g) = w := by
  simp [hostVar, setHostVar]

/-- An assignment leaves the other variables. -/
theorem hostVar_setHostVar_of_ne {x y : Nat} (h : y ≠ x) (w : Word) (g : HostAgent) :
    hostVar y (setHostVar x w g) = hostVar y g := by
  have hfind : (setHostVar x w g).vars.find? (fun p => p.1 == y) = g.vars.find? (fun p => p.1 == y) := by
    rw [setHostVar, List.find?_cons_of_neg (by simpa using h.symm), List.find?_filter]
    congr 1
    funext p
    by_cases hp : p.1 = y <;> simp [hp, h]
  simp only [hostVar, hfind]

/-- The window shows the registers, and neither the host nor the recorded reads. -/
theorem windowRead_host (off : Nat) (s : State) (r : List Word) (g : HostAgent) :
    windowRead off { s with reads := r, host := g } = windowRead off s := by
  rw [windowRead_eq, windowRead_eq]

/-- A defined `rd` assigns its variable the register's value, records the value and goes on (R81; log 11). -/
theorem runStmt_rd {off : Nat} (hlt : off < 0x40) (hal : off % 4 = 0) (x : Nat) (s : State) :
    runStmt (.rd x off) s = .next (hostAdvance
      { s with reads := s.reads ++ [windowRead off s], host := setHostVar x (windowRead off s) s.host }) := by
  have hread := windowRead_host off s s.reads (setHostVar x (windowRead off s) s.host)
  rw [runStmt, hostAccess_read hlt hal, hread, thenAdvance]

/-- A one-bit field of a word, zero-extended. -/
theorem setWidth_extractLsb'_one (w : Word) (k : Nat) :
    (w.extractLsb' k 1).setWidth 32 = if w.getLsbD k then 1#32 else 0#32 := by
  have hbit : w.extractLsb' k 1 = BitVec.ofBool (w.getLsbD k) := by
    ext i hi
    obtain rfl : i = 0 := by omega
    simp
  rw [hbit]
  cases w.getLsbD k <;> rfl

/-- A field of a word, zero-extended, as a number. -/
theorem toNat_setWidth_extractLsb' (w : Word) (k : Nat) {n : Nat} (hn : n ≤ 32) :
    ((w.extractLsb' k n).setWidth 32).toNat = w.toNat / 2 ^ k % 2 ^ n := by
  rw [BitVec.toNat_setWidth_of_le hn, BitVec.extractLsb'_toNat, Nat.shiftRight_eq_div_pow]

/-- Settles O53: the host's turn is its statement, and each statement is an access, a jump or a change of the host. -/
theorem hostStatementsRun : Obligations.HostStatementsRun := by
  refine ⟨?done, fun s hrun => ⟨?label, ?wr, ?wrUndefined, ?rd, ?rdUndefined, ?bne, ?beq, ?jmp, ?halt, ?emit⟩,
    ?fields, ?exprs⟩
  case done =>
    intro s hs
    refine hostTurn_of_none ?_
    rcases hs with hh | hp
    · rw [currentStmt, if_pos hh]
    · rw [currentStmt, hp, ite_self]
  case label => exact fun l hst => hostTurn_of_stmt hrun hst
  case wr =>
    intro off e t hst ha
    rw [hostTurn_of_stmt hrun hst, runStmt, ha, thenAdvance, hostAdvance]
  case wrUndefined =>
    intro off e hst hd
    rw [hostTurn_of_stmt hrun hst, runStmt, hostAccess_write_undefined hd, thenAdvance]
  case rd =>
    intro x off hst hlt hal
    refine ⟨_, (hostTurn_of_stmt hrun hst).trans (runStmt_rd hlt hal x s), rfl, hostVar_setHostVar_same _ _ _,
      fun y hy => hostVar_setHostVar_of_ne hy _ _, rfl, rfl, fun o => windowRead_host o s _ _⟩
  case rdUndefined =>
    intro x off hst hd
    rw [hostTurn_of_stmt hrun hst, runStmt, hostAccess_read_undefined hd, thenAdvance]
  case bne =>
    intro x f k l hst
    rw [hostTurn_of_stmt hrun hst, runStmt]
    exact ⟨fun heq => if_pos heq, fun hne => if_neg hne ▸ hostJump_jumpsTo l s⟩
  case beq =>
    intro x f k l hst
    rw [hostTurn_of_stmt hrun hst, runStmt]
    exact ⟨fun heq => if_pos heq ▸ hostJump_jumpsTo l s, fun hne => if_neg hne⟩
  case jmp => exact fun l hst => hostTurn_of_stmt hrun hst ▸ hostJump_jumpsTo l s
  case halt => exact fun hst => hostTurn_of_stmt hrun hst
  case emit => exact fun es hst => hostTurn_of_stmt hrun hst
  case fields =>
    exact fun w => ⟨setWidth_extractLsb'_one w 0, setWidth_extractLsb'_one w 1, setWidth_extractLsb'_one w 2,
      toNat_setWidth_extractLsb' w 8 (by decide), toNat_setWidth_extractLsb' w 12 (by decide)⟩
  case exprs => exact fun w x g => ⟨rfl, rfl⟩

end Sys2Proof.Machine
end

section
/-! PROOFS. The bus primitive family: READ16 and WRITE16 from acceptance to completion (40_bus_primitive.md R104 to R112),
and that no step but the engine's reaches the bus (R100). -/

namespace Sys2Proof.Machine

/-! ### Whole commands -/

/-- The bus address in a command's word is ADDR[6:0] (R72). -/
@[simp] theorem busAddr_encode (i : Instr) : busAddr (encode i) = i.addr.extractLsb' 0 7 := by
  rw [encode_eq_fields, busAddr_encodeFields]

/-- READ16 from its first label is a whole register read at REG, which ends the command with the value in RDATA (R110). -/
theorem read16_run {s : State} (hs : s.fsm = .read16 .rd1) (d1 d2 d3 d4 d5 d6 : Draw) :
    engineRun [d1, d2, d3, d4, d5, d6] s =
      if d3.ack = false then
        completed (statusErr .nack 0#2) (selectPrims (busAddr s.cmdl) (regField s.cmdl) false) s
      else if d4.n ≠ 2 then
        completed (statusErr .shortRead 0#2) (shortPrims (busAddr s.cmdl) (regField s.cmdl) d4.n) (released s)
      else
        completed statusOk (readPrims (busAddr s.cmdl) (regField s.cmdl) d5.byte d6.byte)
          (received d5.byte d6.byte s) := by
  have hstep : ∀ l d t, t.fsm = .read16 l → t.cmdl = s.cmdl →
      engineStep d t = rdStep (regField s.cmdl) 0#2 .read16 read16Value l d t := fun l d t ht hc => by
    rw [engineStep_read16 d ht, read16Step, hc]
  rw [rd_run _ _ _ _ s hstep hs, finishPhase_zero, finishPhase_zero, read16Value, finish_zero]
  rfl

/-- WRITE16 from its first label is a whole register write of V at REG, whose acknowledge ends the command (R111). -/
theorem write16_run {s : State} (hs : s.fsm = .write16 .wr1) (d1 d2 d3 d4 d5 : Draw) :
    engineRun [d1, d2, d3, d4, d5] s =
      completed (if d5.ack then statusOk else statusErr .nack 0#2)
        (writePrims (busAddr s.cmdl) (regField s.cmdl) s.v d5.ack) s := by
  have hstep : ∀ l d t, t.fsm = .write16 l → t.cmdl = s.cmdl →
      engineStep d t = wrStep (regField s.cmdl) 0#2 .write16 (finish .noErr 0#2) l d t := fun l d t ht hc => by
    rw [engineStep_write16 d ht, write16Step, hc]
  rw [wr_run _ _ _ _ s hstep hs, finishPhase_zero, finish_zero]
  cases d5.ack with
  | false => rfl
  | true => rfl

/-- Settles O22: completion does not look at the STATUS and the label that acceptance leaves. -/
theorem read16ReturnsTheDeviceRegister : Obligations.Read16ReturnsTheDeviceRegister := by
  intro s addr reg hb ha
  obtain ⟨-, hacc, -⟩ := busCommandsAreAccepted s addr reg hb ha
  refine ⟨_, hacc, rfl, fun d1 d2 d3 d4 d5 d6 => (read16_run rfl d1 d2 d3 d4 d5 d6).trans ?_⟩
  simp only [withCommand, busAddr_encode, regField_encode]
  rfl

/-- Settles O23: V is the operand that acceptance latches. -/
theorem write16SendsTheOperand : Obligations.Write16SendsTheOperand := by
  intro s addr reg hb ha
  obtain ⟨-, -, hacc, -⟩ := busCommandsAreAccepted s addr reg hb ha
  refine ⟨_, hacc, rfl, fun d1 d2 d3 d4 d5 => (write16_run rfl d1 d2 d3 d4 d5).trans ?_⟩
  simp only [withCommand, busAddr_encode, regField_encode]
  rfl

/-! ### Who reaches the bus (R100) -/

/-- Acceptance issues nothing, whatever the word (R76, R78). -/
theorem Accepts.busLog {c : Word} {u v : State} (hv : Accepts c u v) : v.busLog = u.busLog := by
  cases hv with
  | command =>
    exact commandBody_keeps State.busLog _ _ (fun _ _ => rfl) (fun _ _ _ => rfl) (fun _ _ _ => rfl) (fun _ _ _ => rfl)
      (fun _ _ _ => rfl)
  | illegal => rfl

/-- The agents' bookkeeping does not reach the bus. -/
theorem sameRte.busLog_eq {s t : State} (h : sameRte s t) : t.busLog = s.busLog := by
  obtain ⟨_, _, _, _, rfl⟩ := h
  rfl

/-- An engine step that issues is that of a running engine (R33). -/
theorem ne_idle_of_busLog_ne {d : Draw} {s : State} (h : (engineStep d s).busLog ≠ s.busLog) : s.fsm ≠ .idle :=
  fun hi => h (congrArg State.busLog (engineStep_idle d hi))

/-- Settles O44: of the outcomes of a step only the engine's turn leaves another list of primitives. -/
theorem onlyTheEngineReachesTheBus : Obligations.OnlyTheEngineReachesTheBus := by
  intro s t h hne
  cases step_outcome h with
  | quiet ht => exact absurd ht.busLog_eq hne
  | wdata hu ht => exact absurd (ht.busLog_eq.trans hu.busLog_eq) hne
  | accept _ hu _ hv ht => exact absurd (ht.busLog_eq.trans (hv.busLog.trans hu.busLog_eq)) hne
  | reset _ hu ht => exact absurd (ht ▸ hu.busLog_eq) hne
  | engine hu ht =>
    subst ht
    obtain ⟨rest, hs, rfl⟩ | ⟨hs, hi, rfl⟩ := hu
    · exact ⟨ne_idle_of_busLog_ne (s := { s with script := rest }) hne, .inl ⟨_, rest, hs, rfl⟩⟩
    · exact ⟨hi, .inr ⟨hs, _, rfl⟩⟩

end Sys2Proof.Machine
end

section
/-! PROOFS. The presence probe family: PROBE from acceptance to completion (41_presence_probe.md R130, R131). -/

namespace Sys2Proof.Machine

/-- PROBE from its first label is an address-only transaction that releases the bus, whose acknowledge ends the
command (R130, R131). -/
theorem probe_run {s : State} (hs : s.fsm = .probe .pb1) (d1 d2 : Draw) :
    engineRun [d1, d2] s =
      completed (if d2.ack then statusOk else statusErr .nack 0#2) [.tBegin (busAddr s.cmdl), .tEnd true d2.ack] s := by
  have hend : (engineStep d1 s).fsm = .probe .pb2 := by rw [engineStep_probe d1 hs, probeStep, goto_fsm]
  rw [engineRun, engineRun, engineRun, engineStep_probe d2 hend, engineStep_probe d1 hs, probeStep, probeStep,
    finish_zero, completed, List.append_cons]
  cases d2.ack with
  | false => rfl
  | true => rfl

/-- Settles O21: completion does not look at the STATUS and the label that acceptance leaves. -/
theorem probeReportsTheAcknowledge : Obligations.ProbeReportsTheAcknowledge := by
  intro s addr reg hb ha
  obtain ⟨hacc, -⟩ := busCommandsAreAccepted s addr reg hb ha
  refine ⟨_, hacc, rfl, fun d1 d2 => (probe_run rfl d1 d2).trans ?_⟩
  simp only [withCommand, busAddr_encode]
  rfl

end Sys2Proof.Machine
end

section
/-! PROOFS. The mode configurator family: field forcing and the verify decision bit by bit (42_mode_configurator.md R140
to R147), FORCE, the settling wait, and CONFIGURE from acceptance to completion (R150, R151). -/

namespace Sys2Proof.Machine

/-! ### Field forcing (R140 to R143) -/

/-- A bit of one of two disjoint masks is no bit of the other (R140). -/
theorem getLsbD_eq_false_of_disjoint {a b : Half} (h : a &&& b = 0#16) {i : Nat} (ha : a.getLsbD i = true) :
    b.getLsbD i = false := by
  have hand : (a &&& b).getLsbD i = false := by rw [h, BitVec.getLsbD_zero]
  rwa [BitVec.getLsbD_and, ha, Bool.true_and] at hand

/-- RATE_1SPS has no bit outside the rate field (R140 constraint 3). -/
theorem rate1sps_eq_false {p : ModeParams} {i : Nat} (hm : p.rateMask.getLsbD i = false) :
    p.rate1sps.getLsbD i = false := by
  refine Bool.eq_false_iff.mpr fun hr => ?_
  have hout := getLsbD_eq_false_of_disjoint p.rate_in hr
  rw [BitVec.getLsbD_not, hm, decide_eq_true (BitVec.lt_of_getLsbD hr)] at hout
  cases hout

theorem getLsbD_mask (p : ModeParams) (i : Nat) :
    p.mask.getLsbD i = (p.resMask.getLsbD i || p.shdnMask.getLsbD i || p.rateMask.getLsbD i) := by
  rw [ModeParams.mask, BitVec.getLsbD_or, BitVec.getLsbD_or]

/-- A bit of the forced value: set in the resolution field, clear in the shutdown field, that of RATE_1SPS in the rate
field, and kept everywhere else (R142). -/
theorem getLsbD_force12 (p : ModeParams) (v : Half) {i : Nat} (hi : i < 16) :
    (force12 p v).getLsbD i =
      if p.resMask.getLsbD i then true
      else if p.shdnMask.getLsbD i then false
      else if p.rateMask.getLsbD i then p.rate1sps.getLsbD i
      else v.getLsbD i := by
  rw [force12, BitVec.getLsbD_or, BitVec.getLsbD_or, BitVec.getLsbD_and, BitVec.getLsbD_not, getLsbD_mask,
    decide_eq_true hi]
  cases hres : p.resMask.getLsbD i with
  | true => simp
  | false =>
    cases hrate : p.rateMask.getLsbD i with
    | true =>
      have hshdn : p.shdnMask.getLsbD i = false :=
        getLsbD_eq_false_of_disjoint ((BitVec.and_comm _ _).trans p.shdn_rate) hrate
      simp [hshdn]
    | false =>
      cases p.shdnMask.getLsbD i <;> simp [rate1sps_eq_false hrate]

/-- The resolution field of a forced value is all ones (R142). -/
theorem force12_and_resMask (p : ModeParams) (v : Half) : force12 p v &&& p.resMask = p.resMask := by
  apply BitVec.eq_of_getLsbD_eq
  intro i hi
  rw [BitVec.getLsbD_and, getLsbD_force12 p v hi]
  cases hres : p.resMask.getLsbD i <;> simp

/-- The shutdown bit of a forced value is 0 (R142). -/
theorem force12_and_shdnMask (p : ModeParams) (v : Half) : force12 p v &&& p.shdnMask = 0#16 := by
  apply BitVec.eq_of_getLsbD_eq
  intro i hi
  rw [BitVec.getLsbD_and, getLsbD_force12 p v hi]
  cases hshdn : p.shdnMask.getLsbD i with
  | false => simp
  | true =>
    have hres := getLsbD_eq_false_of_disjoint ((BitVec.and_comm _ _).trans p.res_shdn) hshdn
    simp [hres]

/-- The rate field of a forced value is RATE_1SPS (R142). -/
theorem force12_and_rateMask (p : ModeParams) (v : Half) : force12 p v &&& p.rateMask = p.rate1sps := by
  apply BitVec.eq_of_getLsbD_eq
  intro i hi
  rw [BitVec.getLsbD_and, getLsbD_force12 p v hi]
  cases hrate : p.rateMask.getLsbD i with
  | false => simp [rate1sps_eq_false hrate]
  | true =>
    have hres := getLsbD_eq_false_of_disjoint ((BitVec.and_comm _ _).trans p.res_rate) hrate
    have hshdn := getLsbD_eq_false_of_disjoint ((BitVec.and_comm _ _).trans p.shdn_rate) hrate
    simp [hres, hshdn]

/-- Forcing keeps every bit outside the three fields (R142). -/
theorem force12_and_not_mask (p : ModeParams) (v : Half) : force12 p v &&& ~~~p.mask = v &&& ~~~p.mask := by
  apply BitVec.eq_of_getLsbD_eq
  intro i hi
  rw [BitVec.getLsbD_and, BitVec.getLsbD_and, BitVec.getLsbD_not, getLsbD_mask, getLsbD_force12 p v hi]
  cases p.resMask.getLsbD i <;> cases p.shdnMask.getLsbD i <;> cases p.rateMask.getLsbD i <;> simp

/-- Settles O28: one law for each field, and one for the bits outside them. -/
theorem forceMasksExactlyTheFields : Obligations.ForceMasksExactlyTheFields := fun p v =>
  ⟨force12_and_resMask p v, force12_and_shdnMask p v, force12_and_rateMask p v, force12_and_not_mask p v⟩

/-- Settles O29: forcing an already forced value rewrites `(force12 v &&& ~M)` to `(v &&& ~M)` (R143). -/
theorem forceIsIdempotent : Obligations.ForceIsIdempotent := fun p v => by
  rw [force12, force12_and_not_mask, ← force12]

/-! ### The verify decision (R147) -/

/-- The verify decision holds exactly where every bit of the resolution field is set (R147). -/
theorem verified_iff (p : ModeParams) (rb : Half) :
    verified p rb = true ↔ ∀ i, p.resMask.getLsbD i = true → rb.getLsbD i = true := by
  rw [verified, beq_iff_eq]
  constructor
  · intro h i hres
    rw [← h, BitVec.getLsbD_and, Bool.and_eq_true] at hres
    exact hres.1
  · intro h
    apply BitVec.eq_of_getLsbD_eq
    intro i _
    rw [BitVec.getLsbD_and]
    cases hres : p.resMask.getLsbD i with
    | false => rw [Bool.and_false]
    | true => rw [h i hres, Bool.and_true]

/-- Settles O30: forcing sets the resolution field. -/
theorem verifyLooksAtResolutionOnly : Obligations.VerifyLooksAtResolutionOnly := fun p rb =>
  ⟨verified_iff p rb, beq_iff_eq.mpr (force12_and_resMask p rb)⟩

/-! ### FORCE (R145) -/

/-- Settles O18: the body of FORCE completes with the forced operand, whatever ADDR and REG are. -/
theorem forceCompletesWithTheForcedValue : Obligations.ForceCompletesWithTheForcedValue := by
  intro s addr reg hb
  rw [exec_idle _ hb]
  exact congrArg Host.Outcome.next (finish_zero .noErr _)

/-! ### The settling wait (R146) -/

/-- Clocks of the settling wait change SCNT alone (R35, R146). -/
theorem settleClocks_eq (n : Nat) (s : State) : settleClocks n s = { s with scnt := s.scnt - n } := by
  rw [settleClocks, Nat.pred_iterate]

/-- The settling wait runs SCNT down and goes on to the readback (R146). -/
theorem settleStep_eq (s : State) : settleStep s = goto (.configure (.r2 .rd1)) (settled s) := by
  rw [settleStep, settleClocks_eq, Nat.sub_self, settled]

/-- The engine step of CF.S is the settling wait. -/
theorem engineStep_settle (d : Draw) {s : State} (hs : s.fsm = .configure .settle) : engineStep d s = settleStep s := by
  rw [engineStep_configure d hs, configureStep]

/-- Settles O26: the step of CF.S is the clocks that SCNT still asks for. -/
theorem settleWaitCountsDown : Obligations.SettleWaitCountsDown := by
  intro s d
  refine ⟨fun hs hack => ?_, fun n => settleClocks_eq n s, engineStep_settle d, fun hs => ?_⟩
  · rw [engineStep_configure d hs, configureStep, wrStep, if_pos hack]
    exact ⟨rfl, rfl⟩
  · rw [engineStep_settle d hs, settleStep_eq]
    rfl

/-! ### CONFIGURE from acceptance to completion (R150) -/

/-- A running sequence that has issued more primitives and stands at another label (R32, R100). -/
def advanced (l : Fsm) (issued : List Prim) (s : State) : State := { s with fsm := l, busLog := s.busLog ++ issued }

/-- A completion issues its primitives after those issued before it (R100). -/
theorem completed_advanced (st : Status) (l : Fsm) (ps qs : List Prim) (s : State) :
    completed st qs (advanced l ps s) = completed st (ps ++ qs) s := by
  rw [completed, completed, advanced, List.append_assoc]

/-- Two advances issue the primitives of both, and the second one sets the label. -/
theorem advanced_advanced (l l' : Fsm) (ps qs : List Prim) (s : State) :
    advanced l' qs (advanced l ps s) = advanced l' (ps ++ qs) s := by
  rw [advanced, advanced, advanced, List.append_assoc]

/-- `finish` records a phase while the latched word is CONFIGURE's, whatever its ADDR and REG are (R203). -/
theorem isConfigure_of_cmdl {s : State} {addr reg : Byte} (h : s.cmdl = encode (.configure addr reg)) :
    isConfigure s = true := by
  rw [isConfigure, h, opField_encode]
  rfl

/-- The initial read: PHASE 1 on failure, else the forced value of the two bytes goes to V and FVAL (R150). -/
theorem configure_read_run {s : State} (hs : s.fsm = .configure (.r1 .rd1)) (hc : isConfigure s = true)
    (d1 d2 d3 d4 d5 d6 : Draw) :
    engineRun [d1, d2, d3, d4, d5, d6] s =
      if d3.ack = false then
        completed (statusErr .nack 1#2) (selectPrims (busAddr s.cmdl) Config.regMode false) s
      else if d4.n ≠ 2 then
        completed (statusErr .shortRead 1#2) (shortPrims (busAddr s.cmdl) Config.regMode d4.n) (released s)
      else
        advanced (.configure (.wr .wr1)) (readPrims (busAddr s.cmdl) Config.regMode d5.byte d6.byte)
          (holding (force12 Config.modeParams (d5.byte ++ d6.byte)) (received d5.byte d6.byte s)) := by
  rw [rd_run Config.regMode 1#2 (fun l => .configure (.r1 l)) configureValue s
    (fun l d t ht _ => engineStep_configure d ht) hs, finishPhase_recorded rfl hc, finishPhase_recorded rfl hc]
  rfl

/-- The write of V: PHASE 2 on failure, else SCNT is loaded (R150, R146). -/
theorem configure_write_run {s : State} (hc : isConfigure s = true) (ps : List Prim) (d1 d2 d3 d4 d5 : Draw) :
    engineRun [d1, d2, d3, d4, d5] (advanced (.configure (.wr .wr1)) ps s) =
      if d5.ack = false then
        completed (statusErr .nack 2#2) (ps ++ writePrims (busAddr s.cmdl) Config.regMode s.v false) s
      else
        advanced (.configure .settle) (ps ++ writePrims (busAddr s.cmdl) Config.regMode s.v true)
          { s with scnt := Config.settleCycles } := by
  have hc' : isConfigure (advanced (.configure (.wr .wr1)) ps s) = true := hc
  rw [wr_run Config.regMode 2#2 (fun l => .configure (.wr l)) configureWritten _
    (fun l d t ht _ => engineStep_configure d ht) rfl, finishPhase_recorded rfl hc', completed_advanced,
    ← advanced_advanced .idle]
  rfl

/-- STATUS after the verify decision on a readback (R147, R150). -/
def verifyStatus (rb : Half) : Status :=
  if rb &&& Config.modeParams.resMask = Config.modeParams.resMask then statusOk else statusErr .verify 3#2

theorem verifyStatus_busy (rb : Half) : (verifyStatus rb).busy = false := by
  rw [verifyStatus]
  split <;> rfl

theorem verifyStatus_ok (rb : Half) : (verifyStatus rb).ok = verified Config.modeParams rb := by
  rw [verifyStatus]
  split
  case isTrue h => exact (beq_iff_eq.mpr h).symm
  case isFalse h => exact (beq_eq_false_iff_ne.mpr h).symm

/-- The end of CONFIGURE takes the verify decision on the readback (R147, R150). -/
theorem configureReadback_eq {s : State} (hc : isConfigure s = true) (rb : Half) :
    configureReadback rb s = { s with rdata := rb, status := verifyStatus rb, fsm := .idle } := by
  have hc' : isConfigure { s with rdata := rb } = true := hc
  rw [configureReadback, verifyStatus, verified]
  by_cases h : rb &&& Config.modeParams.resMask = Config.modeParams.resMask
  · rw [if_pos h, if_pos (beq_iff_eq.mpr h), finish, finishPhase_unrecorded (.inl rfl)]
    rfl
  · rw [if_neg h, if_neg (mt beq_iff_eq.mp h), finish, finishPhase_recorded rfl hc']
    rfl

/-- The readback: PHASE 3 on failure, else the verify decision (R147, R150). -/
theorem configure_readback_run {s : State} (hc : isConfigure s = true) (ps : List Prim) (d1 d2 d3 d4 d5 d6 : Draw) :
    engineRun [d1, d2, d3, d4, d5, d6] (advanced (.configure (.r2 .rd1)) ps s) =
      if d3.ack = false then
        completed (statusErr .nack 3#2) (ps ++ selectPrims (busAddr s.cmdl) Config.regMode false) s
      else if d4.n ≠ 2 then
        completed (statusErr .shortRead 3#2) (ps ++ shortPrims (busAddr s.cmdl) Config.regMode d4.n) (released s)
      else
        completed (verifyStatus (d5.byte ++ d6.byte))
          (ps ++ readPrims (busAddr s.cmdl) Config.regMode d5.byte d6.byte) (received d5.byte d6.byte s) := by
  have hc' : isConfigure (advanced (.configure (.r2 .rd1)) ps s) = true := hc
  rw [rd_run Config.regMode 3#2 (fun l => .configure (.r2 l)) configureReadback _
    (fun l d t ht _ => engineStep_configure d ht) rfl, finishPhase_recorded rfl hc', finishPhase_recorded rfl hc',
    configureReadback_eq (by exact hc)]
  simp only [← completed_advanced _ (.configure (.r2 .rd1))]
  rfl

/-- The settling wait, whatever CONFIGURE's write has loaded into SCNT (R146). -/
theorem configure_settle_run (wait : Draw) (ps : List Prim) (n : Nat) (s : State) :
    engineRun [wait] (advanced (.configure .settle) ps { s with scnt := n }) =
      advanced (.configure (.r2 .rd1)) ps (settled s) := by
  rw [engineRun, engineRun, engineStep_settle wait rfl, settleStep_eq]
  rfl

/-- CONFIGURE from its first label: the initial read, the write, the settling wait and the readback (R150). The engine
is idle after a failure, so the rest of the run changes nothing. -/
theorem configure_run {s : State} (hs : s.fsm = .configure (.r1 .rd1)) {addr reg : Byte}
    (hcmd : s.cmdl = encode (.configure addr reg)) (r1 r2 r3 r4 r5 r6 w1 w2 w3 w4 w5 wait q1 q2 q3 q4 q5 q6 : Draw)
    {a7 : Addr7} (ha : addr.extractLsb' 0 7 = a7) {forced : Half}
    (hf : force12 Config.modeParams (r5.byte ++ r6.byte) = forced) :
    engineRun ([r1, r2, r3, r4, r5, r6] ++ [w1, w2, w3, w4, w5] ++ [wait] ++ [q1, q2, q3, q4, q5, q6]) s =
      if r3.ack = false then
        completed (statusErr .nack 1#2) (selectPrims a7 Config.regMode false) s
      else if r4.n ≠ 2 then
        completed (statusErr .shortRead 1#2) (shortPrims a7 Config.regMode r4.n) (released s)
      else if w5.ack = false then
        completed (statusErr .nack 2#2)
          (readPrims a7 Config.regMode r5.byte r6.byte ++ writePrims a7 Config.regMode forced false)
          (holding forced (received r5.byte r6.byte s))
      else if q3.ack = false then
        completed (statusErr .nack 3#2)
          (readPrims a7 Config.regMode r5.byte r6.byte ++ writePrims a7 Config.regMode forced true ++
            selectPrims a7 Config.regMode false)
          (settled (holding forced (received r5.byte r6.byte s)))
      else if q4.n ≠ 2 then
        completed (statusErr .shortRead 3#2)
          (readPrims a7 Config.regMode r5.byte r6.byte ++ writePrims a7 Config.regMode forced true ++
            shortPrims a7 Config.regMode q4.n)
          (settled (holding forced (received r5.byte r6.byte s)))
      else
        completed (verifyStatus (q5.byte ++ q6.byte))
          (readPrims a7 Config.regMode r5.byte r6.byte ++ writePrims a7 Config.regMode forced true ++
            readPrims a7 Config.regMode q5.byte q6.byte)
          (received q5.byte q6.byte (settled (holding forced (received r5.byte r6.byte s)))) := by
  have hc : isConfigure s = true := isConfigure_of_cmdl hcmd
  have ha7 : busAddr s.cmdl = a7 := (congrArg busAddr hcmd).trans ((busAddr_encode _).trans ha)
  subst ha7 hf
  rw [engineRun_append, engineRun_append, engineRun_append, configure_read_run hs hc]
  by_cases h3 : r3.ack = false
  · rw [if_pos h3, if_pos h3, engineRun_idle _ _ rfl, engineRun_idle _ _ rfl, engineRun_idle _ _ rfl]
  rw [if_neg h3, if_neg h3]
  by_cases h4 : r4.n ≠ 2
  · rw [if_pos h4, if_pos h4, engineRun_idle _ _ rfl, engineRun_idle _ _ rfl, engineRun_idle _ _ rfl]
  rw [if_neg h4, if_neg h4, configure_write_run (s := holding _ (received _ _ s)) hc]
  by_cases h5 : w5.ack = false
  · rw [if_pos h5, if_pos h5, engineRun_idle _ _ rfl, engineRun_idle _ _ rfl]
    rfl
  rw [if_neg h5, if_neg h5, configure_settle_run,
    configure_readback_run (s := settled (holding _ (received _ _ s))) hc]
  rfl

/-- Settles O25: completion does not look at the STATUS and the label that acceptance leaves. -/
theorem configureForcesAndVerifies : Obligations.ConfigureForcesAndVerifies := by
  intro s addr reg hb ha
  obtain ⟨-, -, -, hacc, -⟩ := busCommandsAreAccepted s addr reg hb ha
  refine ⟨_, hacc, rfl, fun r1 r2 r3 r4 r5 r6 w1 w2 w3 w4 w5 wait q1 q2 q3 q4 q5 q6 => ?_⟩
  exact configure_run rfl rfl r1 r2 r3 r4 r5 r6 w1 w2 w3 w4 w5 wait q1 q2 q3 q4 q5 q6 rfl rfl

/-! ### Two CONFIGURE commands in succession (R151) -/

/-- A device keeps its read-only bits and takes the others as written (R151). -/
theorem getLsbD_storedValue (ro old x : Half) {i : Nat} (hi : i < 16) :
    (storedValue ro old x).getLsbD i = if ro.getLsbD i then old.getLsbD i else x.getLsbD i := by
  rw [storedValue, BitVec.getLsbD_or, BitVec.getLsbD_and, BitVec.getLsbD_and, BitVec.getLsbD_not, decide_eq_true hi]
  cases ro.getLsbD i <;> simp

/-- Forcing a stored forced value stores the same value again: a writable bit of it is a forced bit already (R151). -/
theorem storedValue_force12 (p : ModeParams) (ro v : Half) :
    storedValue ro (storedValue ro v (force12 p v)) (force12 p (storedValue ro v (force12 p v))) =
      storedValue ro v (force12 p v) := by
  apply BitVec.eq_of_getLsbD_eq
  intro i hi
  rw [getLsbD_storedValue ro (storedValue ro v (force12 p v)) _ hi]
  by_cases hro : ro.getLsbD i = true
  · rw [if_pos hro]
  · have hs : (storedValue ro v (force12 p v)).getLsbD i = (force12 p v).getLsbD i := by
      rw [getLsbD_storedValue ro v _ hi, if_neg hro]
    rw [if_neg hro, getLsbD_force12 p _ hi, hs, ← getLsbD_force12 p (force12 p v) hi, forceIsIdempotent p v]

/-- A CONFIGURE that reads `v`, writes and reads back `rb` ends with `rb` in RDATA, the forced value of `v` in FVAL and
the verify decision on `rb` in STATUS (R150). -/
theorem configure_answered {s : State} (hb : s.status.busy = false) {addr : Byte} (ha : addr.toNat < 0x80) (reg : Byte)
    {v rb : Half} {ds : List Draw} (h : AnswersConfigure v rb ds) :
    ∃ t, exec (.configure addr reg) s = .next t ∧ (engineRun ds t).fsm = .idle ∧ (engineRun ds t).rdata = rb ∧
      (engineRun ds t).status = verifyStatus rb ∧ (engineRun ds t).fval = force12 Config.modeParams v := by
  obtain ⟨_, _, wait, _, rfl, ⟨r1, r2, r3, r4, r5, r6, rfl, hr3, hr4, rfl⟩, ⟨w1, w2, w3, w4, w5, rfl, hw5⟩,
    q1, q2, q3, q4, q5, q6, rfl, hq3, hq4, rfl⟩ := h
  obtain ⟨t, hexec, -, hrun⟩ := configureForcesAndVerifies s addr reg hb ha
  refine ⟨t, hexec, ?_⟩
  rw [hrun, hr3, hr4, hw5, hq3, hq4]
  exact ⟨rfl, rfl, rfl, rfl⟩

/-- Settles O31: the second CONFIGURE finds the stored forced value, which it stores again. -/
theorem secondConfigureReadsBackTheSame : Obligations.SecondConfigureReadsBackTheSame := by
  constructor
  · intro p ro v s1 s2
    have hs : s2 = s1 := storedValue_force12 p ro v
    exact ⟨hs, by rw [hs]⟩
  · intro s addr reg reg' ro v ds1 ds2 hb ha first second h1 h2
    have hsecond : second = first := storedValue_force12 Config.modeParams ro v
    obtain ⟨t1, hexec1, hidle1, hrdata1, hstatus1, hfval1⟩ := configure_answered hb ha reg h1
    have hb1 : (engineRun ds1 t1).status.busy = false := by rw [hstatus1, verifyStatus_busy]
    obtain ⟨t2, hexec2, hidle2, hrdata2, hstatus2, hfval2⟩ := configure_answered hb1 ha reg' h2
    refine ⟨t1, t2, hexec1, hexec2, hidle1, hidle2, hrdata1, ?_, ?_, ?_, hfval1, hfval2⟩
    · rw [hrdata2, hrdata1, hsecond]
    · rw [hstatus2, hstatus1, hsecond]
    · rw [hstatus1, verifyStatus_ok]

end Sys2Proof.Machine
end

section
/-! PROOFS. The sample decoder family: the sample integer and its two-stage form (43_sample_decoder.md R170, R171), the
exact Celsius value and its binary32 pattern (R172 to R175), DECODE and READTEMP (R180, R182). -/

namespace Sys2Proof.Machine

/-! ### The sample (R170) -/

/-- The arithmetic shift of the raw word drops the padding and sign-extends the sample field (R171, first stage). -/
theorem sshiftRight_eq_signExtend (w : Half) : w.sshiftRight 4 = (sampleField w).signExtend 16 := by
  ext i hi
  rw [BitVec.getElem_sshiftRight, BitVec.getElem_signExtend]
  by_cases h12 : i < 12
  · rw [dif_pos h12, dif_pos (by omega), sampleField, BitVec.getElem_extractLsb', BitVec.getLsbD_eq_getElem]
  · rw [dif_neg h12, dif_neg (by omega), sampleField, BitVec.msb_extractLsb']
    rfl

/-- Dropping the padding divides by 16, rounding down (R170). -/
theorem sampleInt_eq_div (w : Half) : sampleInt w = w.toInt / 16 := by
  calc sampleInt w = ((sampleField w).signExtend 16).toInt := (BitVec.toInt_signExtend_of_le (by decide)).symm
    _ = (w.sshiftRight 4).toInt := by rw [sshiftRight_eq_signExtend]
    _ = w.toInt / 16 := by rw [BitVec.toInt_sshiftRight, Int.shiftRight_eq_div_pow]; rfl

/-- The least sample is that of the field 0x800 (R173). -/
theorem le_sampleInt (w : Half) : -2048 ≤ sampleInt w :=
  BitVec.le_toInt (sampleField w)

/-- The greatest sample is that of the field 0x7FF (R173). -/
theorem sampleInt_le (w : Half) : sampleInt w ≤ 2047 :=
  Int.le_of_lt_add_one (BitVec.toInt_lt (x := sampleField w))

/-- Bit 15 of the raw word is the sign of the sample (R170). -/
theorem sampleInt_neg_iff (w : Half) : sampleInt w < 0 ↔ w.getLsbD 15 = true := by
  have hsign : (sampleField w).msb = w.getLsbD 15 := by
    rw [sampleField, BitVec.msb_extractLsb']
    rfl
  rw [← hsign, BitVec.msb_eq_toInt, decide_eq_true_iff, sampleInt]

/-- Settles O32: the sample is a function of the field, whose integer is the shifted word's. -/
theorem sampleIsTheUpperTwelveBits : Obligations.SampleIsTheUpperTwelveBits := by
  intro w
  refine ⟨sampleInt_eq_div w, le_sampleInt w, sampleInt_le w, sampleWord_toInt w, fun x hx => ?_, rfl, rfl,
    sampleInt_neg_iff w⟩
  have hfield : sampleField w = sampleField x := hx
  exact ⟨congrArg (BitVec.signExtend 32) hfield, congrArg BitVec.toInt hfield⟩

/-! ### The two-stage decode (R171) -/

/-- A sign extension already has bits [15:12] equal to bit 11, so setting them where bit 11 is set changes nothing
(R171, second stage). -/
theorem signExtend_or_high (f : BitVec 12) (h : (f.signExtend 16).getLsbD 11 = true) :
    f.signExtend 16 ||| 0xF000#16 = f.signExtend 16 := by
  have hmsb : f.msb = true := by
    rw [BitVec.getLsbD_signExtend] at h
    exact h
  ext i hi
  rw [BitVec.getElem_or, BitVec.getElem_signExtend]
  by_cases h12 : i < 12
  · have hlow : ∀ j : Fin 12, (0xF000#16).getLsbD j = false := by decide
    rw [← BitVec.getLsbD_eq_getElem (x := 0xF000#16), hlow ⟨i, h12⟩, Bool.or_false]
  · rw [dif_neg h12, hmsb, Bool.true_or]

/-- Settles O33: the first stage is the sign extension of the field, and the second changes nothing. -/
theorem twoStageDecodeAgrees : Obligations.TwoStageDecodeAgrees := by
  intro w
  have hstage : (if (w.sshiftRight 4).getLsbD 11 then w.sshiftRight 4 ||| 0xF000#16 else w.sshiftRight 4) =
      (sampleField w).signExtend 16 := by
    rw [sshiftRight_eq_signExtend]
    split
    case isTrue h => exact signExtend_or_high _ h
    case isFalse => rfl
  rw [hstage]
  apply BitVec.eq_of_toInt_eq
  rw [sampleWord_toInt, BitVec.toInt_signExtend_of_le (by decide), BitVec.toInt_signExtend_of_le (by decide), sampleInt]

/-! ### The Celsius value (R172, R173) -/

/-- The raw word of 16 k has the sample k (R173). -/
theorem sampleInt_ofInt {k : Int} (hlo : -2048 ≤ k) (hhi : k ≤ 2047) : sampleInt (BitVec.ofInt 16 (16 * k)) = k := by
  rw [sampleInt_eq_div, BitVec.toInt_ofInt_eq_self (by decide) (by omega) (by omega)]
  omega

/-- Settles O35: the sample takes exactly the values of its range. -/
theorem celsiusTakesExactlyTheSixteenths : Obligations.CelsiusTakesExactlyTheSixteenths := by
  intro q
  constructor
  · rintro ⟨w, rfl⟩
    exact ⟨sampleInt w, le_sampleInt w, sampleInt_le w, rfl⟩
  · rintro ⟨k, hlo, hhi, rfl⟩
    exact ⟨BitVec.ofInt 16 (16 * k), by rw [celsius, sampleInt_ofInt hlo hhi]⟩

/-! ### The binary32 pattern (R174) -/

/-- The binary32 pattern of a sign, a biased exponent and a fraction (R174). -/
def f32Pattern (sgn exp frac : Nat) : Word := BitVec.ofNat 32 ((sgn <<< 31) ||| (exp <<< 23) ||| frac)

/-- The encoder packs the sign, the exponent of the leading bit and the bits below it (R174). -/
theorem f32_eq_pattern {s : Int} (hs : s ≠ 0) :
    f32 s = f32Pattern (if s < 0 then 1 else 0) (s.natAbs.log2 + 123)
      ((s.natAbs - 2 ^ s.natAbs.log2) <<< (23 - s.natAbs.log2)) :=
  if_neg hs

/-- The fields of a pattern do not overlap (R174). -/
theorem f32Pattern_toNat {sgn exp frac : Nat} (hsgn : sgn < 2) (hexp : exp < 2 ^ 8) (hfrac : frac < 2 ^ 23) :
    (f32Pattern sgn exp frac).toNat = sgn * 2 ^ 31 + (exp * 2 ^ 23 + frac) := by
  have hlow : exp <<< 23 ||| frac = exp * 2 ^ 23 + frac := by
    rw [← Nat.shiftLeft_add_eq_or_of_lt hfrac, Nat.shiftLeft_eq]
  rw [f32Pattern, BitVec.toNat_ofNat, Nat.or_assoc, hlow, ← Nat.shiftLeft_add_eq_or_of_lt (by omega),
    Nat.shiftLeft_eq]
  omega

/-- A word whose three fields are known and whose exponent is not 0 has the value of a normal number (R174). -/
theorem f32Value_of_toNat {w : Word} {sgn exp frac : Nat} (hw : w.toNat = sgn * 2 ^ 31 + (exp * 2 ^ 23 + frac))
    (hsgn : sgn < 2) (hpos : 0 < exp) (hexp : exp < 2 ^ 8) (hfrac : frac < 2 ^ 23) :
    f32Value w = (if sgn = 1 then -1 else 1) * (1 + (frac : ℚ) / 2 ^ 23) * 2 ^ ((exp : ℤ) - 127) := by
  have hfield : ∀ start len, (w.extractLsb' start len).toNat =
      (sgn * 2 ^ 31 + (exp * 2 ^ 23 + frac)) / 2 ^ start % 2 ^ len := fun start len => by
    rw [BitVec.extractLsb'_toNat, hw, Nat.shiftRight_eq_div_pow]
  have hnormal : w.extractLsb' 0 31 ≠ 0#31 := fun h => by
    have h0 : (w.extractLsb' 0 31).toNat = 0 := congrArg BitVec.toNat h
    rw [hfield] at h0
    omega
  have hfraction : (w.extractLsb' 0 23).toNat = frac := by
    rw [hfield]
    omega
  have hexponent : (w.extractLsb' 23 8).toNat = exp := by
    rw [hfield]
    omega
  have hsign : w.getLsbD 31 = true ↔ sgn = 1 := by
    have hmsb : w.getLsbD 31 = decide (2 ^ 31 ≤ w.toNat) := BitVec.msb_eq_decide w
    rw [hmsb, hw, decide_eq_true_iff]
    omega
  simp only [f32Value, if_neg hnormal, hfraction, hexponent, hsign]

/-- The leading bit and the bits below it, aligned to a fraction of 23 bits, give the sixteenths back: no bit of `m` is
lost in the alignment (R172, R174). -/
theorem aligned_fraction_eq_sixteenths {m : Nat} (hm : m ≠ 0) (hlog : m.log2 ≤ 23) :
    (1 + (((m - 2 ^ m.log2) <<< (23 - m.log2) : Nat) : ℚ) / 2 ^ 23) * 2 ^ (((m.log2 + 123 : Nat) : ℤ) - 127) =
      (m : ℚ) / 16 := by
  have hle : 2 ^ m.log2 ≤ m := Nat.log2_self_le hm
  generalize m.log2 = e at hle hlog ⊢
  have hsplit : (2 : ℚ) ^ 23 = 2 ^ (23 - e) * 2 ^ e := by rw [← pow_add, Nat.sub_add_cancel hlog]
  have hexp : (2 : ℚ) ^ (((e + 123 : Nat) : ℤ) - 127) = 2 ^ e / 16 := by
    rw [show ((e + 123 : Nat) : ℤ) - 127 = (e : ℤ) - 4 by omega, zpow_sub₀ two_ne_zero, zpow_natCast]
    norm_num
  rw [hexp, Nat.shiftLeft_eq, hsplit]
  push_cast [hle]
  field_simp
  ring

/-- The bits below the leading one, so aligned, fit the fraction (R174). -/
theorem aligned_fraction_lt {m : Nat} (hlog : m.log2 ≤ 23) : (m - 2 ^ m.log2) <<< (23 - m.log2) < 2 ^ 23 := by
  have hlt : m - 2 ^ m.log2 < 2 ^ m.log2 := by
    have := Nat.lt_log2_self (n := m)
    rw [Nat.pow_succ] at this
    omega
  calc (m - 2 ^ m.log2) <<< (23 - m.log2) = (m - 2 ^ m.log2) * 2 ^ (23 - m.log2) := Nat.shiftLeft_eq _ _
    _ < 2 ^ m.log2 * 2 ^ (23 - m.log2) := Nat.mul_lt_mul_of_pos_right hlt (Nat.two_pow_pos _)
    _ = 2 ^ 23 := by rw [← pow_add, Nat.add_sub_cancel' hlog]

/-- The sign bit and the magnitude give the integer back (R174). -/
theorem signBit_mul_natAbs (s : Int) :
    (if (if s < 0 then 1 else 0) = 1 then -1 else 1) * (s.natAbs : ℚ) = s := by
  rw [Nat.cast_natAbs]
  by_cases hneg : s < 0
  · rw [if_pos hneg, if_pos rfl, abs_of_neg hneg, Int.cast_neg, neg_one_mul, neg_neg]
  · rw [if_neg hneg, if_neg (by decide), abs_of_nonneg (not_lt.mp hneg), one_mul]

/-- `f32 s` denotes s/16 exactly, for every s whose bits fit a fraction (R172, R174). -/
theorem f32Value_f32 {s : Int} (hs : s.natAbs < 2 ^ 24) : f32Value (f32 s) = (s : ℚ) / 16 := by
  by_cases h0 : s = 0
  · rw [h0, f32, if_pos rfl, f32Value, if_pos (by decide), Int.cast_zero, zero_div]
  · have hm : s.natAbs ≠ 0 := Int.natAbs_ne_zero.mpr h0
    have hlog : s.natAbs.log2 ≤ 23 := Nat.le_of_lt_succ ((Nat.log2_lt hm).mpr hs)
    have hsgn : (if s < 0 then 1 else 0) < 2 := by split <;> decide
    have hexp : s.natAbs.log2 + 123 < 2 ^ 8 := by omega
    have hfrac := aligned_fraction_lt hlog
    rw [f32_eq_pattern h0, f32Value_of_toNat (f32Pattern_toNat hsgn hexp hfrac) hsgn (Nat.succ_pos _) hexp hfrac,
      mul_assoc, aligned_fraction_eq_sixteenths hm hlog, ← mul_div_assoc, signBit_mul_natAbs]

/-- Settles O34: a sample has at most 12 bits. -/
theorem tempfIsTheExactCelsius : Obligations.TempfIsTheExactCelsius := by
  intro w
  have hlo := le_sampleInt w
  have hhi := sampleInt_le w
  exact f32Value_f32 (by omega)

/-! ### DECODE (R182) -/

/-- Settles O19: the body of DECODE completes with the sample of the operand, whatever ADDR and REG are. -/
theorem decodeCompletesWithTheSample : Obligations.DecodeCompletesWithTheSample := by
  intro s addr reg hb
  rw [exec_idle _ hb]
  exact congrArg Host.Outcome.next (finish_zero .noErr _)

/-! ### READTEMP (R180) -/

/-- READTEMP from its first label is a whole register read at REG_TEMP, which ends the command with the value in RDATA
and its sample in TEMPQ and TEMPF (R180). -/
theorem readTemp_run {s : State} (hs : s.fsm = .readTemp .rd1) (d1 d2 d3 d4 d5 d6 : Draw) :
    engineRun [d1, d2, d3, d4, d5, d6] s =
      if d3.ack = false then
        completed (statusErr .nack 0#2) (selectPrims (busAddr s.cmdl) Config.regTemp false) s
      else if d4.n ≠ 2 then
        completed (statusErr .shortRead 0#2) (shortPrims (busAddr s.cmdl) Config.regTemp d4.n) (released s)
      else
        completed statusOk (readPrims (busAddr s.cmdl) Config.regTemp d5.byte d6.byte)
          (setSample (d5.byte ++ d6.byte) (received d5.byte d6.byte s)) := by
  rw [rd_run Config.regTemp 0#2 .readTemp readTempValue s (fun l d t ht _ => engineStep_readTemp d ht) hs,
    finishPhase_zero, finishPhase_zero, readTempValue, finish_zero]
  rfl

/-- Settles O24: completion does not look at the STATUS and the label that acceptance leaves. -/
theorem readTempDecodesTheSample : Obligations.ReadTempDecodesTheSample := by
  intro s addr reg hb ha
  obtain ⟨-, -, -, -, hacc, -⟩ := busCommandsAreAccepted s addr reg hb ha
  refine ⟨_, hacc, rfl, fun d1 d2 d3 d4 d5 d6 => (readTemp_run rfl d1 d2 d3 d4 d5 d6).trans ?_⟩
  simp only [withCommand, busAddr_encode]
  rfl

end Sys2Proof.Machine
end

section
/-! PROOFS. The exceptions family: `finish` as R203 writes it, with the errors that record a phase listed by name and
CONFIGURE recognised by its opcode (60_exceptions.md R201, R203). -/

namespace Sys2Proof.Machine

/-- The errors that record a phase are the bus errors and the verify error (R203). -/
theorem recordsPhase_iff (err : ErrCode) :
    recordsPhase err = true ↔ err = .nack ∨ err = .shortRead ∨ err = .verify := by
  cases err <;> decide

/-- The latched command is CONFIGURE exactly when its OP field is 0x4 (R74, R203). -/
theorem isConfigure_iff_op (s : State) : isConfigure s = true ↔ s.cmdl.extractLsb' 0 4 = 0x4#4 := by
  rw [isConfigure, opField, beq_iff_eq]

/-- Settles O42: the two tests of `finishPhase` are the error and the opcode that R203 names. -/
theorem finishWritesStatusOnly : Obligations.FinishWritesStatusOnly := by
  intro err phase s
  simp only [finish, statusFinished, finishPhase, Bool.and_eq_true, recordsPhase_iff, isConfigure_iff_op]

end Sys2Proof.Machine
end
